-- ==== Sys2Proof/Word.lean ====
section
/-! DEFINITION. The word types of the block: bytes, half words and words are what the spec treats as bits
(00_scope.md R12: `BitsN` is an unsigned N-bit value). -/

namespace Sys2Proof

/-- `Bits8`: one byte on the bus, one byte of a chip register (20_memory.md R68). -/
abbrev Byte := BitVec 8

/-- `Bits16`: an offset, a length, a mode word (30_encoding.md R112). -/
abbrev Half := BitVec 16

/-- `Bits32`: a register address, a status word, a mask (30_encoding.md R112). -/
abbrev Word := BitVec 32

/-- A 5-bit file index or fast-command code (30_encoding.md R91, R93). -/
abbrev File := BitVec 5

/-- A 7-bit sub-address (30_encoding.md R91). -/
abbrev Sub := BitVec 7

end Sys2Proof
end

