-- ==== Sys2Proof/Config.lean ====
section
/-! DEFINITION. What is fixed for one machine: the configuration record `Cfg` of the CFG port (00_scope.md R10,
20_memory.md R70, 42_fastcmd.md R202), its default instance RM0, and the free values of the environment, which have
no body, so that nothing can be proved of what they are. -/

namespace Sys2Proof

/-- Register addresses, `Cfg.REG.*` (20_memory.md R70, first table). An address is `file << 16 | offset`. -/
structure Regs where
  FSTAT : Word
  STATUS_LO : Word
  STATUS_HI : Word
  RDB_STATUS : Word
  DSS_STAT : Word
  CRC_ECHO : Word
  SYS_CFG : Word
  SYS_STATE : Word
  PLL_COMMON : Word
  DX_TIME : Word
  TX_ANTD : Word
  RX_ANTD : Word
  DIAG_CFG : Word
  FINFO : Word
  FINFO_B0 : Word
  FINFO_B1 : Word
  IND_ADDR : Word
  IND_OFFSET : Word
  IRQ_EN_LO : Word
deriving DecidableEq, Repr

/-- Bit masks, `Cfg.M.*` (20_memory.md R70, second table), each at the width of its register. -/
structure Masks where
  F_TXOK : Byte
  F_RXOK : Byte
  F_RXERR : Byte
  F_RXTO : Byte
  F_SYSEVT : Byte
  F_PANIC : Byte
  SPICRCE : Word
  ALL_TX : Word
  CIADONE : Word
  RXFR : Word
  RXFCG : Word
  RXFCE : Word
  CIAERR : Word
  CPERR : Word
  HPDWARN : Word
  ALL_RX_GOOD : Word
  RX_ERR : Word
  RX_TO : Word
  SYS_EVT_CLR : Word
  HI_SPI_ERR : Word
  HI_CMD_ERR : Word
  DB_FCG : Byte
  DB_FR : Byte
  DB_CIADONE : Byte
  DB_CLR : Byte
  DSS_AVAIL : Byte
  DIS_DRXB : Word
  RXAUTR : Word
  MINDIAG : Byte
deriving DecidableEq, Repr

/-- Fast-command codes, `Cfg.FC.*` (42_fastcmd.md R202). R11's "below 32" holds by the type. -/
structure FastCodes where
  TXRXOFF : File
  TX : File
  RX : File
  DTX : File
  DRX : File
  DTX_TS : File
  DRX_TS : File
  DTX_RS : File
  DRX_RS : File
  DTX_REF : File
  DRX_REF : File
  CCA_TX : File
  TX_W4R : File
  DTX_W4R : File
  DTX_TS_W4R : File
  DTX_RS_W4R : File
  DTX_REF_W4R : File
  CCA_TX_W4R : File
  DB_TOGGLE : File
  SEMA_REQ : File
  SEMA_REL : File
  SEMA_FORCE : File
  SOFT_RESET_SEM : File
  SOFT_RESET_NO_SEM : File
  ENTER_SLEEP : File
deriving DecidableEq, Repr

/-- The 25 catalogued codes, in the order of R202's table. -/
def FastCodes.codes (c : FastCodes) : List File :=
  [c.TXRXOFF, c.TX, c.RX, c.DTX, c.DRX, c.DTX_TS, c.DRX_TS, c.DTX_RS, c.DRX_RS, c.DTX_REF, c.DRX_REF, c.CCA_TX] ++
  [c.TX_W4R, c.DTX_W4R, c.DTX_TS_W4R, c.DTX_RS_W4R, c.DTX_REF_W4R, c.CCA_TX_W4R, c.DB_TOGGLE] ++
  [c.SEMA_REQ, c.SEMA_REL, c.SEMA_FORCE, c.SOFT_RESET_SEM, c.SOFT_RESET_NO_SEM, c.ENTER_SLEEP]

/-- Which function `Cfg.ant_dly_to_dx` is (00_scope.md R10: OPEN, no default; the test vectors use `zext_32`). -/
inductive AntConv where
  /-- The open function: `Config.antDlyToDx`, of which nothing is known. -/
  | opened
  /-- The function of the spec's test vectors, `zext_32`. -/
  | zext32
deriving DecidableEq, Repr

/-- The configuration record `Cfg` (00_scope.md R10), constant during a run. `IS_IDLE_CLASS` holds the function
`is_idle_class : Bits8 -> Bool` as its table: bit `v` is the answer for `v` (DESIGN CHOICE, log 4). -/
structure Cfg where
  MAX_LEN : Nat
  FILE_BITS : Nat
  SUB_BITS : Nat
  FILE_SHIFT : Nat
  CRC_POLY : Byte
  CRC_INIT : Byte
  STATUS_HI_WIDTH : Nat
  HALT_ON_PROTOCOL_ERROR : Bool
  RX_LATE_ISSUES_OFF : Bool
  HAS_DUAL_SPI : Bool
  ANT_DLY_TO_DX : AntConv
  IS_IDLE_CLASS : BitVec 256
  LEN_MASK_STD : Half
  LEN_MASK_LONG : Half
  RNG_MASK : Half
  PLL_COMMON_DEFAULT : Half
  STS_ND_MASK : Byte
  STATE_BYTE_OFF : Half
  DIAG_BYTE_OFF : Half
  BUF1_FINFO_TARGET : Word
  REG : Regs
  M : Masks
  FC : FastCodes
deriving DecidableEq, Repr

namespace Config

/-- RM0's register addresses (20_memory.md R70; general knowledge or placeholders: PRESUMED, log 29). -/
def rm0Regs : Regs where
  FSTAT := 0x1F0000#32
  STATUS_LO := 0x000044#32
  STATUS_HI := 0x000048#32
  RDB_STATUS := 0x010024#32
  DSS_STAT := 0x1B0000#32
  CRC_ECHO := 0x000018#32
  SYS_CFG := 0x000010#32
  SYS_STATE := 0x0F0030#32
  PLL_COMMON := 0x090008#32
  DX_TIME := 0x00002C#32
  TX_ANTD := 0x010004#32
  RX_ANTD := 0x0E0000#32
  DIAG_CFG := 0x0E0000#32
  FINFO := 0x00004C#32
  FINFO_B0 := 0x180000#32
  FINFO_B1 := 0x1D0000#32
  IND_ADDR := 0x1F0004#32
  IND_OFFSET := 0x1F0008#32
  IRQ_EN_LO := 0x00003C#32

/-- RM0's masks (20_memory.md R70; PRESUMED, log 29). -/
def rm0Masks : Masks where
  F_TXOK := 0x01#8
  F_RXOK := 0x08#8
  F_RXERR := 0x10#8
  F_RXTO := 0x20#8
  F_SYSEVT := 0x40#8
  F_PANIC := 0x80#8
  SPICRCE := 0x00000004#32
  ALL_TX := 0x000000F0#32
  CIADONE := 0x00000400#32
  RXFR := 0x00002000#32
  RXFCG := 0x00004000#32
  RXFCE := 0x00008000#32
  CIAERR := 0x00040000#32
  CPERR := 0x10000000#32
  HPDWARN := 0x08000000#32
  ALL_RX_GOOD := 0x00006F00#32
  RX_ERR := 0x24119000#32
  RX_TO := 0x00220000#32
  SYS_EVT_CLR := 0x01800000#32
  HI_SPI_ERR := 0x0380#32
  HI_CMD_ERR := 0x0040#32
  DB_FCG := 0x01#8
  DB_FR := 0x02#8
  DB_CIADONE := 0x04#8
  DB_CLR := 0x0F#8
  DSS_AVAIL := 0x03#8
  DIS_DRXB := 0x00000008#32
  RXAUTR := 0x00000400#32
  MINDIAG := 0x10#8

/-- RM0's fast-command codes (42_fastcmd.md R202; PRESUMED, log 29). -/
def rm0Fast : FastCodes where
  TXRXOFF := 0x00#5
  TX := 0x01#5
  RX := 0x02#5
  DTX := 0x03#5
  DRX := 0x04#5
  DTX_TS := 0x05#5
  DRX_TS := 0x06#5
  DTX_RS := 0x07#5
  DRX_RS := 0x08#5
  DTX_REF := 0x09#5
  DRX_REF := 0x0A#5
  CCA_TX := 0x0B#5
  TX_W4R := 0x0C#5
  DTX_W4R := 0x0D#5
  DTX_TS_W4R := 0x0E#5
  DTX_RS_W4R := 0x0F#5
  DTX_REF_W4R := 0x10#5
  CCA_TX_W4R := 0x11#5
  DB_TOGGLE := 0x13#5
  SEMA_REQ := 0x14#5
  SEMA_REL := 0x15#5
  SEMA_FORCE := 0x16#5
  SOFT_RESET_SEM := 0x18#5
  SOFT_RESET_NO_SEM := 0x19#5
  ENTER_SLEEP := 0x1A#5

/-- The default instance RM0 (00_scope.md R10). -/
def RM0 : Cfg where
  MAX_LEN := 0x3100
  FILE_BITS := 5
  SUB_BITS := 7
  FILE_SHIFT := 16
  CRC_POLY := 0x07#8
  CRC_INIT := 0x00#8
  STATUS_HI_WIDTH := 16
  HALT_ON_PROTOCOL_ERROR := false
  RX_LATE_ISSUES_OFF := true
  HAS_DUAL_SPI := true
  ANT_DLY_TO_DX := .opened
  IS_IDLE_CLASS := 0x0F#256
  LEN_MASK_STD := 0x007F#16
  LEN_MASK_LONG := 0x03FF#16
  RNG_MASK := 0x8000#16
  PLL_COMMON_DEFAULT := 0xE104#16
  STS_ND_MASK := 0x03#8
  STATE_BYTE_OFF := 2#16
  DIAG_BYTE_OFF := 2#16
  BUF1_FINFO_TARGET := 0x1800E8#32
  REG := rm0Regs
  M := rm0Masks
  FC := rm0Fast

end Config

/-- Who holds the dual-host semaphore (10_state.md R39(g), 60_exceptions.md R396). -/
inductive SemOwner where
  | nobody
  | thisHost
  | otherHost
deriving DecidableEq, Repr, Inhabited

namespace Config

/-- FREE VALUE (log 3). `Cfg.ant_dly_to_dx` where it is OPEN: "the model assumes nothing but that it is a function
of its operand" (43_trx_sequencer.md R243). -/
opaque antDlyToDx : Half → Word

/-- FREE VALUE (log 8). The byte number `i` that the chip answers to the bus transaction number `n` when no answer is
scripted: "the oracle may answer any value" (93_implementation_defined.md U7). -/
opaque oracleByte : Nat → Nat → Byte

/-- FREE VALUE (log 8). Whether the transport fails the bus transaction number `n` when no answer is scripted
(60_exceptions.md R371). -/
opaque oracleFails : Nat → Bool

/-- FREE VALUE (log 8). Whether the chip took the frame of a failed transaction: "What reached the chip of the failed
transaction is unknown to the block" (60_exceptions.md R371, 93_implementation_defined.md U16). -/
opaque oracleReached : Nat → Bool

/-- FREE VALUE (log 12). Who holds the semaphore after a request: the grant rule is not in the source
(60_exceptions.md R396). -/
opaque semAfterRequest : Nat → SemOwner → SemOwner

end Config

end Sys2Proof
end

