-- ==== Sys2Proof/Syntax.lean ====
section
/-! DEFINITION. The syntax: one constructor per row of `spec/opcode_table.json` (73 rows), and the two shapes in
which a request reaches the block: the CMD-port record of 30_encoding.md R112 and the request for one bus frame. -/

namespace Sys2Proof

/-- The transaction kinds of `transact` (40_codec.md R140). -/
inductive Kind where
  | read
  | write
  | mod8
  | mod16
  | mod32
  | fast
deriving DecidableEq, Repr

/-- The instructions: the block's bus frames, fast commands and CMD-port operations. -/
inductive Instr where
  -- bus frames, 30_encoding.md R92 to R97; a read names how many bytes the transport is to fetch (R99)
  | busRdShort (file : File) (len : Half)
  | busWrShort (file : File) (body : List Byte)
  | busRdExt (file : File) (sub : Sub) (len : Half)
  | busWrExt (file : File) (sub : Sub) (body : List Byte)
  | busMod8 (file : File) (sub : Sub) (and or : Byte)
  | busMod16 (file : File) (sub : Sub) (and or : Half)
  | busMod32 (file : File) (sub : Sub) (and or : Word)
  | busFast (code : File)
  -- patterns a decoder calls invalid, 30_encoding.md R104
  | busInvalidFastRead (code : File)
  | busInvalidReadM1 (file : File) (sub : Sub)
  | busInvalidReadM2 (file : File) (sub : Sub)
  | busInvalidReadM3 (file : File) (sub : Sub)
  -- fast commands, 42_fastcmd.md R203 to R229
  | fcTxrxoff
  | fcTx
  | fcRx
  | fcDtx
  | fcDrx
  | fcDtxTs
  | fcDrxTs
  | fcDtxRs
  | fcDrxRs
  | fcDtxRef
  | fcDrxRef
  | fcCcaTx
  | fcTxW4r
  | fcDtxW4r
  | fcDtxTsW4r
  | fcDtxRsW4r
  | fcDtxRefW4r
  | fcCcaTxW4r
  | fcDbToggle
  | fcSemaReq
  | fcSemaRel
  | fcSemaForce
  | fcSoftResetSem
  | fcSoftResetNoSem
  | fcEnterSleep
  -- codes outside the catalogue, 42_fastcmd.md R201
  | fcReserved12
  | fcReserved17
  | fcReserved1B
  | fcReserved1C
  | fcReserved1D
  | fcReserved1E
  | fcReserved1F
  -- CMD-port operations, 30_encoding.md R112
  | init
  | deinit
  | setChannel (ch : Byte)
  | setSts (mode len : Byte)
  | setCrcMode (m : BitVec 2)
  | setFceDis (b : Bool)
  | setZeroLenOk (b : Bool)
  | setLongFrames (b : Bool)
  | setCallback (id : BitVec 3) (present : Bool)
  | irqSrcModify (and or : Word)
  | transact (addr : Word) (offset len mode : Half) (fast : Bool) (buf : List Byte)
  | read8 (addr : Word) (offset : Half)
  | read16 (addr : Word) (offset : Half)
  | read32 (addr : Word) (offset : Half)
  | write8 (addr : Word) (offset : Half) (v : Byte)
  | write16 (addr : Word) (offset : Half) (v : Half)
  | write32 (addr : Word) (offset : Half) (v : Word)
  | modify8 (addr : Word) (offset : Half) (and or : Byte)
  | modify16 (addr : Word) (offset : Half) (and or : Half)
  | modify32 (addr : Word) (offset : Half) (and or : Word)
  | fastcmd (addr : Word)
  | startTx (mode : Byte)
  | startRx (mode : Byte)
  | forceTrxOff
  | dblEnable (autoReenable : Bool)
  | dblDisable
  | signalBufferFree
  | isrPass
  -- every other op code, 30_encoding.md R115
  | cmdReserved (op : Byte)
deriving DecidableEq, Repr

/-- A CMD-port request, the record of 30_encoding.md R112. -/
structure CmdReq where
  op : Byte
  addr : Word := 0
  offset : Half := 0
  len : Half := 0
  mode : Half := 0
  fast : Bool := false
  v0 : Word := 0
  v1 : Word := 0
  buf : List Byte := []
deriving DecidableEq, Repr

/-- A request for one bus frame: header and payload bytes in bus order, without the trailer (the codec adds it,
40_codec.md R146); for a read, how many bytes the transport is to fetch, which no frame encodes (30_encoding.md R99).
DESIGN CHOICE, log 6. -/
structure FrameReq where
  bytes : List Byte
  rlen : Half := 0
deriving DecidableEq, Repr

/-- What can arrive at the CMD port (log 5, log 17). -/
inductive Input where
  /-- An operation request (30_encoding.md R112). -/
  | cmd (r : CmdReq)
  /-- A request for one bus frame (log 6). -/
  | frame (f : FrameReq)
  /-- The running callback handler returns (60_exceptions.md R390). -/
  | ret
deriving DecidableEq, Repr

end Sys2Proof
end

