-- ==== Sys2Proof/Machine/State.lean ====
section
/-! DEFINITION. The state, as plain data: the device context, the event record, the sequencer with its continuation
(10_state.md R20 to R38), the environment state the rules read or change through the ports (R39), the inputs still to
come, and the messages that left the ports. -/

namespace Sys2Proof.Machine

/-! ## Values of the ports -/

/-- `ctx.crc_mode` (10_state.md R24). -/
inductive CrcMode where
  | off
  | write
  | writeRead
deriving DecidableEq, Repr

/-- `ctx.dbl`, the buffer-access state (10_state.md R25). -/
inductive Dbl where
  | off
  | buffer0
  | buffer1
deriving DecidableEq, Repr

/-- The eight callbacks, in the order of their ids (46_context_ops.md R359). -/
inductive CallbackId where
  | onTxDone
  | onRxOk
  | onRxError
  | onRxTimeout
  | onSpiReady
  | onSpiError
  | onSpiReadCrcError
  | onDualSpiEvent
deriving DecidableEq, Repr

/-- `rec.cause` (10_state.md R30). -/
inductive Cause where
  | none
  | spiErr
  | cmdErr
deriving DecidableEq, Repr

/-- `rec.flags`, the block's only condition flags (10_state.md R31). -/
structure RecFlags where
  ciaDone : Bool
  ciaErr : Bool
  stsErr : Bool
  noData : Bool
  phrErr : Bool
deriving DecidableEq, Repr

/-- The event record `rec` (10_state.md R30). `statusHi` holds `STATUS_HI_WIDTH` bits, the others zero (log 25). -/
structure EventRec where
  datalen : Half
  rng : Bool
  status : Word
  statusHi : Word
  dss : Byte
  flags : RecFlags
  cause : Cause
deriving DecidableEq, Repr

/-- The device context `ctx` (10_state.md R20 to R29). Bit `id` of `cb` says that callback `id` is present: the table is
"an 8-bit enable mask on the EVT port" (46_context_ops.md R359). -/
structure Ctx where
  live : Bool
  channel : Byte
  stsMode : Byte
  stsLen : Byte
  crcMode : CrcMode
  dbl : Dbl
  fceDis : Bool
  zeroLenOk : Bool
  longFrames : Bool
  cb : Byte
deriving DecidableEq, Repr

/-- The errors of 60_exceptions.md R370. -/
inductive Err where
  | busError
  | protocolError
  | late
  /-- raised by nothing in scope (R375) -/
  | timeout
  | invalidArgument
  /-- never a result (R373) -/
  | crcMismatch
deriving DecidableEq, Repr

/-- The data an operation returns. -/
inductive Value where
  | unit
  | bits8 (v : Byte)
  | bits16 (v : Half)
  | bits32 (v : Word)
  | bytes (d : List Byte)
deriving DecidableEq, Repr

/-- An operation's answer on the CMD port (60_exceptions.md R370). -/
inductive Result where
  | ok (v : Value)
  | err (e : Err)
deriving DecidableEq, Repr

/-- A message that left a port (00_scope.md R9). -/
inductive Event where
  /-- `BusWrite(hdr, body, crc)` and whether the transport answered `Ok` -/
  | busWrite (hdr body : List Byte) (crc : Option Byte) (ok : Bool)
  /-- `BusRead(hdr, n)` and the bytes it returned, none for `BusError` -/
  | busRead (hdr : List Byte) (n : Nat) (data : Option (List Byte))
  /-- `IrqSaveDisable()` and the token it returned -/
  | irqSaveDisable (tok : Bool)
  /-- `IrqRestore(token)` -/
  | irqRestore (tok : Bool)
  /-- the callback with the event record it received, and the context it can inspect through `rec.ctx` (R360, log 18) -/
  | callback (f : CallbackId) (rec : EventRec) (ctx : Ctx)
  /-- the answer of an operation -/
  | answer (r : Result)
deriving DecidableEq, Repr

/-! ## The continuation (10_state.md R36): where an operation in progress stands -/

/-- How a read's bytes become the operation's data (41_accessors.md R170 to R172). -/
inductive RetKind where
  | bits8
  | bits16
  | bits32
  | bytes
deriving DecidableEq, Repr

/-- The delay flavour of a start (30_encoding.md R113, R114); `immediate` is the absence of the flavour bits. -/
inductive Flavour where
  | immediate
  | delayed
  | dlyRef
  | dlyRxTs
  | dlyTxTs
  | cca
deriving DecidableEq, Repr

/-- A `start_tx` or `start_rx` in progress: which, its flavour, and its modifier (`RespExpected` or `IdleOnLate`). -/
structure Start where
  tx : Bool
  flv : Flavour
  opt : Bool
deriving DecidableEq, Repr

/-- The actions of `start_tx` and `start_rx` (43_trx_sequencer.md R243, R244, R252). -/
inductive TrxPt where
  /-- the PLL common write of `start_rx` -/
  | pll
  /-- `a <- read16(antreg, 0)` -/
  | antRead
  /-- `dx <- read32(DX_TIME, 0)` -/
  | dxRead (a : Half)
  /-- `write32(DX_TIME, 0, v)` -/
  | dxWrite (v : Word)
  /-- the start command -/
  | command
  /-- `b <- read8(STATUS_LO, 3)` -/
  | lateRead
  /-- `FastCmd(TXRXOFF)` of a late start -/
  | lateOff
  /-- the fail-open `FastCmd(RX)` of a late receive -/
  | lateRx
deriving DecidableEq, Repr

/-- The write a critical section protects (43_trx_sequencer.md R263, 46_context_ops.md R361). -/
inductive Guarded where
  | trxOff
  | irqSrc (and or : Word)
deriving DecidableEq, Repr

/-- The actions of a critical section. -/
inductive CritPt where
  | mask
  | run (tok : Bool)
  | unmask (tok : Bool) (r : Result)
deriving DecidableEq, Repr

/-- The actions of the double-buffer operations (44_dblbuf.md R280, R284, R286). -/
inductive DblPt where
  | enModify (auto : Bool)
  | enSet
  | enIndAddr
  | enIndOffset
  | enDiag
  | disModify
  | disSet
  | toggle
  | flip
deriving DecidableEq, Repr

/-- The actions of a classifier pass, in the order of 45_event_classifier.md R300. -/
inductive PassPt where
  | capFstat
  | capStatus
  | capSub
  | g2Hi
  | g2aLo
  | g2aHi
  | g2aCb
  | g2bHi
  | g2bCb
  | g3Pll
  | g3Cb
  | g3Clr
  | g4Cb
  | g4Clr
  | g5Benign
  | g5Finfo
  | g5Clr
  | g5Sub
  | g5Err
  | g5Ok
  | g5Toggle
  | g5Flip
  | g6Clr
  | g6Toggle
  | g6Flip
  | g6Cb
  | g7Clr
  | g7Toggle
  | g7Flip
  | g7Cb
  | g8Read
  | g8Clr
  | g8Cb
deriving DecidableEq, Repr

/-- The classifier temporaries, the status snapshot (10_state.md R33). -/
structure Snap where
  fstat : Byte := 0
  st : Word := 0
  sdb : Byte := 0
  hi : Word := 0
  dss : Byte := 0
  fi : Half := 0
  benign : Bool := false
  absorbed : Word := 0
  clr : Word := 0
deriving DecidableEq, Repr

/-- The next action of an operation in progress. -/
inductive Point where
  /-- the one read of a plain operation: header, whether the CRC check applies, length, result form -/
  | read (hdr : List Byte) (checked : Bool) (n : Nat) (ret : RetKind)
  /-- the one write of a plain operation -/
  | write (hdr body : List Byte)
  /-- the state read of `force_trx_off` -/
  | stateRead
  | trx (p : TrxPt) (st : Start)
  | crit (p : CritPt) (g : Guarded)
  | dbl (p : DblPt)
  | pass (p : PassPt) (v : Snap)
deriving DecidableEq, Repr

/-- Where the task stands inside its action: a checked read is two transactions and perhaps a callback (40_codec.md R148, R150). -/
inductive Phase where
  /-- the action is next -/
  | ready
  /-- the data are in; the CRC-echo read is next -/
  | echo (localCrc : Byte) (data : List Byte)
  /-- the echo differed; `on_spi_read_crc_error` is next -/
  | alarm (data : List Byte)
  /-- a callback of this task runs; on its return the task goes on with these data -/
  | held (data : List Byte)
deriving DecidableEq, Repr

/-- Who waits for a task's end. -/
inductive Owner where
  /-- an operation of the CMD port: its result is answered -/
  | cmd
  /-- a pass started by the request `isr_pass` -/
  | passCmd
  /-- a pass started by the IRQ port: "nobody to answer" (45_event_classifier.md R335) -/
  | passIrq
deriving DecidableEq, Repr

/-- An operation or a pass in progress. -/
structure Task where
  owner : Owner
  pt : Point
  phase : Phase
deriving DecidableEq, Repr

/-- One entry of the continuation stack. -/
inductive Entry where
  | task (t : Task)
  /-- a callback handler of the host runs (60_exceptions.md R390) -/
  | handler (f : CallbackId)
deriving DecidableEq, Repr

/-- The sequencer (10_state.md R38). -/
structure Sequencer where
  inPass : Bool
  irqMasked : Bool
  halted : Bool
deriving DecidableEq, Repr

/-! ## The environment (10_state.md R39) -/

/-- The byte store of the chip: cells by rising address, none holding 0, which is what an unlisted address reads as. -/
abbrev Memory := List Host.Cell

/-- The chip's TX/RX state (10_state.md R37). -/
inductive TrxState where
  | idle
  | idleRC
  | idlePLL
  | transmitting
  | receiving
deriving DecidableEq, Repr

/-- The chip's own double-buffer pointer (10_state.md R39(c)). -/
inductive HwBuf where
  | buf0
  | buf1
deriving DecidableEq, Repr

/-- The chip as the reference responder `ChipRef` holds it (20_memory.md R82), the semaphore's owner (10_state.md R39(g)),
and the chip's CRC configuration (70_reset_and_hazards.md R431). -/
structure Chip where
  mem : Memory
  echo : Byte
  hwbuf : HwBuf
  trx : TrxState
  log : List File
  sem : SemOwner
  /-- the chip expects and checks a trailer on writes: the `crc_on` of its frame decoder (30_encoding.md R99, R105;
  where it comes from is the model's choice, log 36) -/
  crcOn : Bool
deriving DecidableEq, Repr

/-- An answer of the BUS port (00_scope.md R9; log 8). -/
inductive Reply where
  /-- `Ok`, with the bytes the reference responder returns -/
  | chip
  /-- `Ok`, with these bytes, whatever the reference responder holds -/
  | data (d : List Byte)
  /-- `BusError`; whether the chip took the frame all the same -/
  | fail (reached : Bool)
deriving DecidableEq, Repr

/-- Who answers when no answer is scripted (log 8). -/
inductive Responder where
  /-- the open oracle: any value (93_implementation_defined.md U7) -/
  | oracle
  /-- the reference responder (20_memory.md R82) -/
  | chipRef
deriving DecidableEq, Repr

/-- What the environment does at one boundary between two actions (60_exceptions.md R381, 20_memory.md R75; log 13). A
field that is `none` leaves what it names as it is. -/
structure Boundary where
  /-- bytes the chip changes in its registers -/
  pokes : List Host.Cell := []
  /-- the TX/RX state the chip enters by itself: frame sent, frame received, timeout, sleep, wake, reset (R240) -/
  trx : Option TrxState := none
  /-- the buffer the chip's pointer moves to: soft reset, sleep, the other host (70_reset_and_hazards.md R426 (e), (f)) -/
  hwbuf : Option HwBuf := none
  /-- the chip's CRC configuration, set by writes no rule gives (R414, R431; log 36) -/
  crcOn : Option Bool := none
  /-- the echo register: reads of the other host, resets (20_memory.md R81, R438) -/
  echo : Option Byte := none
  /-- the semaphore's owner: commands of the other host (60_exceptions.md R396) -/
  sem : Option SemOwner := none
  /-- the level the chip drives the IRQ line to -/
  irq : Option Bool := none
  /-- what the platform moves its own interrupt mask to, outside a critical section (10_state.md R39 (f), 60_exceptions.md
  R383; that it may, and only there: the model's choice, log 39) -/
  mask : Option Bool := none
  /-- the environment's choice: a pass starts here, if one may -/
  start : Bool := false
  /-- the block loses and regains power here (70_reset_and_hazards.md R410, R437; log 20) -/
  power : Bool := false
deriving DecidableEq, Repr

/-- The environment of the block. -/
structure Env where
  chip : Chip
  irq : Bool
  platMask : Bool
  responder : Responder
  replies : List Reply
  txn : Nat
deriving DecidableEq, Repr

/-! ## The state -/

/-- The whole machine. -/
structure State where
  cfg : Cfg
  ctx : Ctx
  evt : EventRec
  seq : Sequencer
  stack : List Entry
  /-- a pass of the IRQ port ended at this boundary, and the next action of the foreground operation in progress is due
  (70_reset_and_hazards.md R429; log 37) -/
  served : Bool
  env : Env
  inputs : List Input
  sched : List Boundary
  trace : List Event
deriving DecidableEq, Repr

/-- Why the machine is stuck. -/
inductive Fault where
  /-- Raised by every request and every step of a halted block (40_codec.md R143, 70_reset_and_hazards.md R437: "stuck,
  never final"). Safe. -/
  | halted
deriving DecidableEq, Repr

/-- The patterns of 30_encoding.md R104. -/
inductive BadPattern where
  | fastCommandWithReadBit
  | readWithModifyWidth
deriving DecidableEq, Repr

/-- Why a step has no meaning. -/
inductive Refusal where
  /-- Raised by an arm of `exec` whose instruction has no meaning yet. Safe. -/
  | notModelled (mnemonic : String)
  /-- Raised by every step of a machine whose `Cfg` is not well-formed (00_scope.md R11: "refuse (not fault)"). Safe. -/
  | cfgNotWellFormed
  /-- Raised by the four `BUS.INVALID_*` rows: "a decoder must report as invalid" (30_encoding.md R104). Safe. -/
  | invalidFrame (p : BadPattern)
  /-- Raised by a step that meets a request for a frame that the frame decoder calls invalid for its length
  (30_encoding.md R105; 93_implementation_defined.md U3: refuse). Safe. -/
  | undecodable
  /-- Raised by a step that meets a handler's return while no handler runs (log 32). Safe. -/
  | strayReturn
deriving DecidableEq, Repr

/-! ## Reset (10_state.md R42, 70_reset_and_hazards.md R410) -/

/-- The flags of a zero record. -/
def RecFlags.zero : RecFlags where
  ciaDone := false
  ciaErr := false
  stsErr := false
  noData := false
  phrErr := false

/-- The zero record (10_state.md R30). -/
def EventRec.zero : EventRec where
  datalen := 0
  rng := false
  status := 0
  statusHi := 0
  dss := 0
  flags := RecFlags.zero
  cause := .none

/-- The context at power-on (10_state.md R42). -/
def Ctx.powerOn : Ctx where
  live := false
  channel := 0
  stsMode := 0
  stsLen := 0
  crcMode := .off
  dbl := .off
  fceDis := false
  zeroLenOk := false
  longFrames := false
  cb := 0

/-- The sequencer at power-on (10_state.md R42). -/
def Sequencer.powerOn : Sequencer where
  inPass := false
  irqMasked := false
  halted := false

/-- The reference responder's initial state (20_memory.md R82; DESIGN CHOICE for `echo`, `sem` and `crcOn`, log 9, 11, 36). -/
def Chip.initial : Chip where
  mem := []
  echo := 0
  hwbuf := .buf0
  trx := .idle
  log := []
  sem := .nobody
  crcOn := false

/-- The environment before anything happened (DESIGN CHOICE, log 8, log 11). -/
def Env.initial : Env where
  chip := Chip.initial
  irq := false
  platMask := false
  responder := .oracle
  replies := []
  txn := 0

/-- The machine at power-on, under RM0, with nothing to do. -/
def State.reset : State where
  cfg := Config.RM0
  ctx := Ctx.powerOn
  evt := EventRec.zero
  seq := Sequencer.powerOn
  stack := []
  served := false
  env := Env.initial
  inputs := []
  sched := []
  trace := []

end Sys2Proof.Machine
end

