-- ==== Sys2Proof/Machine/Memory.lean ====
section
/-! DEFINITION. The chip's byte store (20_memory.md R67, R82): a list of cells in one canonical form, and its byte
operations. An unlisted address reads as 0, "initially all zero" (R82; DESIGN CHOICE for the chip itself, log 9). -/

namespace Sys2Proof.Machine

/-- The register space: 32 files of 65536 bytes (20_memory.md R82). -/
def spaceSize : Nat := 0x200000

/-- The cells rise strictly from `lo`, lie in the register space, and hold no 0. -/
def cellsFrom (lo : Nat) : Memory → Bool
  | [] => true
  | (a, b) :: rest => decide (lo ≤ a) && decide (a < spaceSize) && b != 0#8 && cellsFrom (a + 1) rest

/-- The canonical form of a byte store. -/
def memWf (m : Memory) : Bool :=
  cellsFrom 0 m

/-- The byte at an address. -/
def readByte (m : Memory) (k : Nat) : Byte :=
  match m with
  | [] => 0
  | (a, b) :: rest => if a = k then b else readByte rest k

/-- The store with one byte written; the canonical form is kept (writing 0 removes the cell). -/
def writeByte (m : Memory) (k : Nat) (v : Byte) : Memory :=
  match m with
  | [] => if v = 0#8 then [] else [(k, v)]
  | (a, b) :: rest =>
    if k < a then (if v = 0#8 then (a, b) :: rest else (k, v) :: (a, b) :: rest)
    else if k = a then (if v = 0#8 then rest else (k, v) :: rest)
    else (a, b) :: writeByte rest k v

/-- The address of byte `off` of a file; offsets are 16 bits (20_memory.md R82: `off : Bits16`). -/
def cellKey (file : File) (off : Nat) : Nat :=
  file.toNat * 0x10000 + off % 0x10000

/-- `n` bytes from offset `off` of a file, in increasing offset order. -/
def readBytes (m : Memory) (file : File) (off n : Nat) : List Byte :=
  (List.range n).map fun i => readByte m (cellKey file (off + i))

/-- The bytes written from offset `off` of a file on. -/
def storeBytes (m : Memory) (file : File) (off : Nat) : List Byte → Memory
  | [] => m
  | b :: rest => storeBytes (writeByte m (cellKey file off) b) file (off + 1) rest

/-- Bytes the chip changes by itself (20_memory.md R75); an address is taken modulo the register space. -/
def pokeAll (m : Memory) : List Host.Cell → Memory
  | [] => m
  | (a, b) :: rest => pokeAll (writeByte m (a % spaceSize) b) rest

end Sys2Proof.Machine
end

