-- ==== Sys2Proof/Machine/Bits.lean ====
section
/-! DEFINITION. Byte order and bit-field helpers (20_memory.md R60, R61; 30_encoding.md R107, R120). -/

namespace Sys2Proof

/-- `LE_16(v)`: least significant byte first (20_memory.md R60). -/
def le16 (v : Half) : List Byte :=
  [v.extractLsb' 0 8, v.extractLsb' 8 8]

/-- `LE_32(v)` (20_memory.md R60). -/
def le32 (v : Word) : List Byte :=
  [v.extractLsb' 0 8, v.extractLsb' 8 8, v.extractLsb' 16 8, v.extractLsb' 24 8]

/-- The byte number `i` of a payload; past its end, zero (no rule reads there). -/
def byteAt (d : List Byte) (i : Nat) : Byte :=
  d.getD i 0

/-- `unLE` of two bytes: `d[0] | d[1] << 8` (41_accessors.md R171). -/
def unLE16 (d : List Byte) : Half :=
  (byteAt d 0).setWidth 16 ||| (byteAt d 1).setWidth 16 <<< 8

/-- `unLE` of four bytes: `d[0] | d[1] << 8 | d[2] << 16 | d[3] << 24` (41_accessors.md R172). -/
def unLE32 (d : List Byte) : Word :=
  (byteAt d 0).setWidth 32 ||| (byteAt d 1).setWidth 32 <<< 8 ||| (byteAt d 2).setWidth 32 <<< 16 |||
    (byteAt d 3).setWidth 32 <<< 24

/-- `v & m != 0`: some bit of the mask is set. -/
def anySet {w : Nat} (v m : BitVec w) : Bool :=
  (v &&& m) != 0

end Sys2Proof
end

