-- ==== Sys2Proof/Machine/Crc.lean ====
section
/-! DEFINITION. CRC-8 (30_encoding.md R100): the remainder of polynomial division over GF(2), most significant bit
first, no reflection, no final exclusive-or. -/

namespace Sys2Proof

/-- One of the eight steps of a byte: shift left, dropping bit 7, and reduce by the generator if it was set. -/
def crcShift (poly r : Byte) : Byte :=
  if r.getLsbD 7 then (r <<< 1) ^^^ poly else r <<< 1

/-- The remainder after the eight steps of one byte. -/
def crcEight (poly r : Byte) : Byte :=
  crcShift poly (crcShift poly (crcShift poly (crcShift poly
    (crcShift poly (crcShift poly (crcShift poly (crcShift poly r)))))))

/-- One byte of the message: `r <- r ^ b`, then eight steps. -/
def crcByte (poly r b : Byte) : Byte :=
  crcEight poly (r ^^^ b)

/-- `crc8(bytes, init)` with an explicit initial remainder. -/
def crc8From (poly init : Byte) (bytes : List Byte) : Byte :=
  bytes.foldl (crcByte poly) init

/-- `crc8(bytes)` with the parameters of the configuration. -/
def crc8 (c : Cfg) (bytes : List Byte) : Byte :=
  crc8From c.CRC_POLY c.CRC_INIT bytes

end Sys2Proof
end

