-- ==== Sys2Proof/WellFormed.lean ====
section
/-! DEFINITION. Well-formedness: of a configuration (00_scope.md R11) and of an instruction under a configuration (the
terms that the encodings of 30_encoding.md can carry and the codec admits). -/

namespace Sys2Proof

/-- Every register address of `REG.*` but `CRC_ECHO`. -/
def Regs.others (r : Regs) : List Word :=
  [r.FSTAT, r.STATUS_LO, r.STATUS_HI, r.RDB_STATUS, r.DSS_STAT, r.SYS_CFG, r.SYS_STATE, r.PLL_COMMON, r.DX_TIME] ++
  [r.TX_ANTD, r.RX_ANTD, r.DIAG_CFG, r.FINFO, r.FINFO_B0, r.FINFO_B1, r.IND_ADDR, r.IND_OFFSET, r.IRQ_EN_LO]

/-- Exactly one bit of `v` is set. -/
def oneBit {w : Nat} (v : BitVec w) : Bool :=
  v != 0 && (v &&& (v - 1)) == 0

/-- No element of the list occurs twice. -/
def allDistinct {w : Nat} : List (BitVec w) → Bool
  | [] => true
  | x :: xs => !xs.contains x && allDistinct xs

/-- R11, the header geometry. -/
def Cfg.geometryWf (c : Cfg) : Bool :=
  c.FILE_BITS == 5 && c.SUB_BITS == 7 && c.FILE_SHIFT == 16

/-- R11: "`M.HPDWARN` has exactly one bit set and that bit lies in bits 31:24". -/
def Cfg.hpdwarnWf (c : Cfg) : Bool :=
  oneBit c.M.HPDWARN && (c.M.HPDWARN &&& 0x00FFFFFF#32) == 0

/-- R11: the three merged sub-status masks are distinct single bits within bits 3:0, and `M.DB_CLR` lies there too. -/
def Cfg.subStatusWf (c : Cfg) : Bool :=
  oneBit c.M.DB_FCG && oneBit c.M.DB_FR && oneBit c.M.DB_CIADONE &&
  ((c.M.DB_FCG ||| c.M.DB_FR ||| c.M.DB_CIADONE ||| c.M.DB_CLR) &&& 0xF0#8) == 0 &&
  allDistinct [c.M.DB_FCG, c.M.DB_FR, c.M.DB_CIADONE]

/-- R11: "`REG.CRC_ECHO` differs from every other register address in `REG.*`". -/
def Cfg.echoWf (c : Cfg) : Bool :=
  !c.REG.others.contains c.REG.CRC_ECHO

/-- `Cfg` is well-formed (00_scope.md R11). -/
def Cfg.wf (c : Cfg) : Bool :=
  c.geometryWf && allDistinct c.FC.codes && c.hpdwarnWf && c.subStatusWf && c.echoWf &&
  (c.STATUS_HI_WIDTH == 16 || c.STATUS_HI_WIDTH == 32)

/-- The codes that 42_fastcmd.md R202 leaves reserved under RM0. -/
def reservedCodes : List File :=
  [0x12#5, 0x17#5, 0x1B#5, 0x1C#5, 0x1D#5, 0x1E#5, 0x1F#5]

/-- The op codes of 30_encoding.md R112's table. -/
def opCodes : List Byte :=
  [0x00#8, 0x01#8, 0x02#8, 0x03#8, 0x04#8, 0x05#8, 0x06#8, 0x07#8, 0x08#8, 0x09#8] ++
  [0x10#8, 0x11#8, 0x12#8, 0x13#8, 0x14#8, 0x15#8, 0x16#8, 0x17#8, 0x18#8, 0x19#8] ++
  [0x20#8, 0x30#8, 0x31#8, 0x32#8, 0x40#8, 0x41#8, 0x42#8, 0x50#8]

/-- A payload length the codec admits for a plain read or write (40_codec.md R141 (c)); `len` is a `Bits16` (R140). -/
def lenWf (c : Cfg) (n : Nat) : Bool :=
  decide (1 ≤ n) && decide (n < c.MAX_LEN) && decide (n < 0x10000)

/-- A code with no name of its own: neither in the catalogue nor one of the reserved rows of the table. -/
def unnamedCode (c : Cfg) (code : File) : Bool :=
  !c.FC.codes.contains code && !reservedCodes.contains code

/-- The well-formed instructions under `c`: each is the one reading of the words that encode it. -/
def WellFormed (c : Cfg) (i : Instr) : Bool :=
  match i with
  | .busRdShort _ len => lenWf c len.toNat
  | .busWrShort _ body => lenWf c body.length
  | .busRdExt _ _ len => lenWf c len.toNat
  | .busWrExt _ _ body => lenWf c body.length
  | .busFast code => unnamedCode c code
  | .fcReserved12 => !c.FC.codes.contains 0x12#5
  | .fcReserved17 => !c.FC.codes.contains 0x17#5
  | .fcReserved1B => !c.FC.codes.contains 0x1B#5
  | .fcReserved1C => !c.FC.codes.contains 0x1C#5
  | .fcReserved1D => !c.FC.codes.contains 0x1D#5
  | .fcReserved1E => !c.FC.codes.contains 0x1E#5
  | .fcReserved1F => !c.FC.codes.contains 0x1F#5
  | .cmdReserved op => !opCodes.contains op
  | .busMod8 .. | .busMod16 .. | .busMod32 .. | .busInvalidFastRead _ | .busInvalidReadM1 .. | .busInvalidReadM2 ..
  | .busInvalidReadM3 .. | .fcTxrxoff | .fcTx | .fcRx | .fcDtx | .fcDrx | .fcDtxTs | .fcDrxTs | .fcDtxRs | .fcDrxRs
  | .fcDtxRef | .fcDrxRef | .fcCcaTx | .fcTxW4r | .fcDtxW4r | .fcDtxTsW4r | .fcDtxRsW4r | .fcDtxRefW4r | .fcCcaTxW4r
  | .fcDbToggle | .fcSemaReq | .fcSemaRel | .fcSemaForce | .fcSoftResetSem | .fcSoftResetNoSem | .fcEnterSleep
  | .init | .deinit | .setChannel _ | .setSts .. | .setCrcMode _ | .setFceDis _ | .setZeroLenOk _ | .setLongFrames _
  | .setCallback .. | .irqSrcModify .. | .transact .. | .read8 .. | .read16 .. | .read32 .. | .write8 .. | .write16 ..
  | .write32 .. | .modify8 .. | .modify16 .. | .modify32 .. | .fastcmd _ | .startTx _ | .startRx _ | .forceTrxOff
  | .dblEnable _ | .dblDisable | .signalBufferFree | .isrPass => true

end Sys2Proof
end

