-- ==== Sys2Proof/Decode.lean ====
section
/-! DEFINITION. The decoders, total on every input: the frame decoder of 30_encoding.md R105 on any byte sequence, and
the reading of a request (R112). After them, from the same tables, the encoder. -/

namespace Sys2Proof

/-! ## Headers (30_encoding.md R93 to R96) -/

/-- The write bit in bit 7 of byte 0. -/
def writeBit (w : Bool) : Byte :=
  if w then 0x80#8 else 0x00#8

/-- R93: `hdr = [0x81 | code << 1]`. -/
def hdrFast (code : File) : List Byte :=
  [0x81#8 ||| code.setWidth 8 <<< 1]

/-- R94: `hdr = [W << 7 | 0x40 | file << 1 | sub[6], sub[5:0] << 2 | M]`. -/
def hdrExt (w : Bool) (file : File) (sub : Sub) (m : BitVec 2) : List Byte :=
  [writeBit w ||| 0x40#8 ||| file.setWidth 8 <<< 1 ||| (sub.extractLsb' 6 1).setWidth 8,
   (sub.extractLsb' 0 6).setWidth 8 <<< 2 ||| m.setWidth 8]

/-- R95: `hdr = [W << 7 | file << 1]`. -/
def hdrShort (w : Bool) (file : File) : List Byte :=
  [writeBit w ||| file.setWidth 8 <<< 1]

/-- The direction bit `W` of a kind (R94, R95; R93 for `Fast`). -/
def Kind.isWrite : Kind → Bool
  | .read => false
  | .write | .mod8 | .mod16 | .mod32 | .fast => true

/-- The field `M` of the extended header (R96). -/
def Kind.modBits : Kind → BitVec 2
  | .read | .write | .fast => 0#2
  | .mod8 => 1#2
  | .mod16 => 2#2
  | .mod32 => 3#2

/-- The kind is a modify. -/
def Kind.isModify : Kind → Bool
  | .mod8 | .mod16 | .mod32 => true
  | .read | .write | .fast => false

/-- `2N/8`, the payload length of `ModN` (R97); 0 for the other kinds, whose length the request gives. -/
def Kind.modLen : Kind → Nat
  | .mod8 => 2
  | .mod16 => 4
  | .mod32 => 8
  | .read | .write | .fast => 0

/-- R92: the extended header when the sub-address is not zero or the kind is a modify, else the short one; `Fast` has its own header. -/
def headerOf (k : Kind) (file : File) (sub : Sub) : List Byte :=
  match k with
  | .fast => hdrFast file
  | .read | .write | .mod8 | .mod16 | .mod32 =>
    if sub != 0 || k.isModify then hdrExt k.isWrite file sub k.modBits else hdrShort k.isWrite file

/-- R90, R98: `hdr ++ payload ++ trailer`, the trailer present when `crcOn`. -/
def frameBytes (c : Cfg) (hdr payload : List Byte) (crcOn : Bool) : List Byte :=
  hdr ++ payload ++ (if crcOn then [crc8 c (hdr ++ payload)] else [])

/-! ## The frame decoder (30_encoding.md R105) -/

/-- A decoded frame. -/
structure Frame where
  kind : Kind
  /-- the header was the two-byte one -/
  ext : Bool
  /-- the file index, or the code of a fast command -/
  file : File
  sub : Sub
  payload : List Byte
  crcOk : Bool
deriving DecidableEq, Repr

/-- Why a byte sequence is no frame: the `Invalid` answers of R105. -/
inductive FrameErr where
  /-- an empty sequence (R105 is total on non-empty ones only) -/
  | emptyFrame
  /-- "truncated extended header" -/
  | truncatedHeader
  /-- "fast command with read bit", R104 (a) -/
  | fastWithReadBit (code : File)
  /-- "read with modify width", R104 (b) -/
  | readWithModifyWidth (file : File) (sub : Sub) (m : BitVec 2)
  /-- "missing CRC trailer" -/
  | missingTrailer
  /-- "fast command with payload" -/
  | fastWithPayload
  /-- "modify payload length" -/
  | modifyPayloadLength
  /-- a request for a read that carries payload bytes: a read sends its header only (R90) -/
  | readWithPayload
deriving DecidableEq, Repr

/-- What the frame decoder answers. -/
inductive FrameResult where
  | frame (f : Frame)
  | invalid (e : FrameErr)
deriving DecidableEq, Repr

/-- The kind named by an extended header: `W = 0 ? Read : (M = 0 ? Write : M = 1 ? Mod8 : M = 2 ? Mod16 : Mod32)`. -/
def extKind (w : Bool) (m : BitVec 2) : Kind :=
  if w then (if m == 0 then .write else if m == 1 then .mod8 else if m == 2 then .mod16 else .mod32) else .read

/-- The second half of R105: what follows the header, with its trailer taken off and checked, and the payload length checked. -/
def decodeBody (c : Cfg) (crcOn : Bool) (frame : List Byte) (kind : Kind) (ext : Bool) (file : File) (sub : Sub)
    (rest : List Byte) : FrameResult :=
  let trailer := kind != .read && crcOn
  if trailer && rest.isEmpty then .invalid .missingTrailer
  else
    let payload := if trailer then rest.dropLast else rest
    let crcOk := !trailer || crc8 c frame.dropLast == frame.getLastD 0
    if kind == .fast && !payload.isEmpty then .invalid .fastWithPayload
    else if kind.isModify && payload.length != kind.modLen then .invalid .modifyPayloadLength
    else .frame { kind, ext, file, sub, payload, crcOk }

/-- R105, the frame decoder, on any byte sequence. -/
def decodeFrame (c : Cfg) (crcOn : Bool) (frame : List Byte) : FrameResult :=
  match frame with
  | [] => .invalid .emptyFrame
  | b0 :: rest =>
    let w := b0.getLsbD 7
    let f := b0.extractLsb' 1 5
    if !b0.getLsbD 6 then
      if b0.getLsbD 0 then
        if !w then .invalid (.fastWithReadBit f) else decodeBody c crcOn frame .fast false f 0 rest
      else decodeBody c crcOn frame (if w then .write else .read) false f 0 rest
    else
      match rest with
      | [] => .invalid .truncatedHeader
      | b1 :: rest2 =>
        let sub : Sub := (b0.extractLsb' 0 1).setWidth 7 <<< 6 ||| (b1.extractLsb' 2 6).setWidth 7
        let m := b1.extractLsb' 0 2
        if !w && m != 0 then .invalid (.readWithModifyWidth f sub m)
        else decodeBody c crcOn frame (extKind w m) true f sub rest2

/-! ## Requests -/

/-- The catalogued fast commands, in the order of `FastCodes.codes` (42_fastcmd.md R202). -/
def fcInstrs : List Instr :=
  [.fcTxrxoff, .fcTx, .fcRx, .fcDtx, .fcDrx, .fcDtxTs, .fcDrxTs, .fcDtxRs, .fcDrxRs, .fcDtxRef, .fcDrxRef, .fcCcaTx] ++
  [.fcTxW4r, .fcDtxW4r, .fcDtxTsW4r, .fcDtxRsW4r, .fcDtxRefW4r, .fcCcaTxW4r, .fcDbToggle] ++
  [.fcSemaReq, .fcSemaRel, .fcSemaForce, .fcSoftResetSem, .fcSoftResetNoSem, .fcEnterSleep]

/-- The reserved rows of the table, in the order of `reservedCodes`. -/
def fcReservedInstrs : List Instr :=
  [.fcReserved12, .fcReserved17, .fcReserved1B, .fcReserved1C, .fcReserved1D, .fcReserved1E, .fcReserved1F]

/-- Every named fast-command code with its row, the catalogue first. -/
def fcRows (c : Cfg) : List (File × Instr) :=
  c.FC.codes.zip fcInstrs ++ reservedCodes.zip fcReservedInstrs

/-- The row a fast-command code belongs to; a code with no name of its own is `BUS.FAST`. -/
def decodeFast (c : Cfg) (code : File) : Instr :=
  match (fcRows c).find? (fun p => p.1 == code) with
  | some p => p.2
  | none => .busFast code

/-- What a request is read as. -/
inductive Decoded where
  | instr (i : Instr)
  | rejected (e : FrameErr)
deriving DecidableEq, Repr

/-- The row a valid frame belongs to. -/
def frameInstr (c : Cfg) (rlen : Half) (f : Frame) : Decoded :=
  match f.kind with
  | .fast => .instr (decodeFast c f.file)
  | .read =>
    if !f.payload.isEmpty then .rejected .readWithPayload
    else .instr (if f.ext then .busRdExt f.file f.sub rlen else .busRdShort f.file rlen)
  | .write => .instr (if f.ext then .busWrExt f.file f.sub f.payload else .busWrShort f.file f.payload)
  | .mod8 => .instr (.busMod8 f.file f.sub (byteAt f.payload 0) (byteAt f.payload 1))
  | .mod16 => .instr (.busMod16 f.file f.sub (unLE16 (f.payload.take 2)) (unLE16 (f.payload.drop 2)))
  | .mod32 => .instr (.busMod32 f.file f.sub (unLE32 (f.payload.take 4)) (unLE32 (f.payload.drop 4)))

/-- The row of a pattern that R104 calls invalid; every other `Invalid` is rejected by its name. -/
def invalidInstr : FrameErr → Decoded
  | .fastWithReadBit code => .instr (.busInvalidFastRead code)
  | .readWithModifyWidth file sub m =>
    .instr (if m == 1 then .busInvalidReadM1 file sub else if m == 2 then .busInvalidReadM2 file sub
      else .busInvalidReadM3 file sub)
  | e => .rejected e

/-- The reading of a request for one bus frame (log 6). -/
def decodeFrameReq (c : Cfg) (r : FrameReq) : Decoded :=
  match decodeFrame c false r.bytes with
  | .frame f => frameInstr c r.rlen f
  | .invalid e => invalidInstr e

/-- The reading of a CMD-port record (30_encoding.md R112): the op code selects the row, and the row names the fields
it reads; every other op code is reserved (R115). -/
def decodeCmd (r : CmdReq) : Instr :=
  match r.op with
  | 0x00#8 => .init
  | 0x01#8 => .deinit
  | 0x02#8 => .setChannel (r.v0.extractLsb' 0 8)
  | 0x03#8 => .setSts (r.v0.extractLsb' 0 8) (r.v1.extractLsb' 0 8)
  | 0x04#8 => .setCrcMode (r.v0.extractLsb' 0 2)
  | 0x05#8 => .setFceDis (r.v0.getLsbD 0)
  | 0x06#8 => .setZeroLenOk (r.v0.getLsbD 0)
  | 0x07#8 => .setLongFrames (r.v0.getLsbD 0)
  | 0x08#8 => .setCallback (r.v0.extractLsb' 0 3) (r.v1.getLsbD 0)
  | 0x09#8 => .irqSrcModify r.v0 r.v1
  | 0x10#8 => .transact r.addr r.offset r.len r.mode r.fast r.buf
  | 0x11#8 => .read8 r.addr r.offset
  | 0x12#8 => .read16 r.addr r.offset
  | 0x13#8 => .read32 r.addr r.offset
  | 0x14#8 => .write8 r.addr r.offset (r.v0.extractLsb' 0 8)
  | 0x15#8 => .write16 r.addr r.offset (r.v0.extractLsb' 0 16)
  | 0x16#8 => .write32 r.addr r.offset r.v0
  | 0x17#8 => .modify8 r.addr r.offset (r.v0.extractLsb' 0 8) (r.v1.extractLsb' 0 8)
  | 0x18#8 => .modify16 r.addr r.offset (r.v0.extractLsb' 0 16) (r.v1.extractLsb' 0 16)
  | 0x19#8 => .modify32 r.addr r.offset r.v0 r.v1
  | 0x20#8 => .fastcmd r.addr
  | 0x30#8 => .startTx (r.mode.extractLsb' 0 8)
  | 0x31#8 => .startRx (r.mode.extractLsb' 0 8)
  | 0x32#8 => .forceTrxOff
  | 0x40#8 => .dblEnable (r.v0.getLsbD 0)
  | 0x41#8 => .dblDisable
  | 0x42#8 => .signalBufferFree
  | 0x50#8 => .isrPass
  | op => .cmdReserved op

/-! ## The encoder -/

/-- The request for a write-class frame. -/
def frameReq (hdr body : List Byte) : Input :=
  .frame { bytes := hdr ++ body }

/-- The request for a read frame of `len` bytes. -/
def readReq (hdr : List Byte) (len : Half) : Input :=
  .frame { bytes := hdr, rlen := len }

/-- A flag as an operand word. -/
def flagWord (b : Bool) : Word :=
  if b then 1 else 0

/-- The words of a well-formed instruction under `c`: a bus frame by R92 to R97, a CMD operation by R112's table. -/
def encode (c : Cfg) (i : Instr) : Input :=
  match i with
  | .busRdShort file len => readReq (hdrShort false file) len
  | .busWrShort file body => frameReq (hdrShort true file) body
  | .busRdExt file sub len => readReq (hdrExt false file sub 0#2) len
  | .busWrExt file sub body => frameReq (hdrExt true file sub 0#2) body
  | .busMod8 file sub and or => frameReq (hdrExt true file sub 1#2) [and, or]
  | .busMod16 file sub and or => frameReq (hdrExt true file sub 2#2) (le16 and ++ le16 or)
  | .busMod32 file sub and or => frameReq (hdrExt true file sub 3#2) (le32 and ++ le32 or)
  | .busFast code => frameReq (hdrFast code) []
  | .busInvalidFastRead code => readReq [0x01#8 ||| code.setWidth 8 <<< 1] 0
  | .busInvalidReadM1 file sub => readReq (hdrExt false file sub 1#2) 0
  | .busInvalidReadM2 file sub => readReq (hdrExt false file sub 2#2) 0
  | .busInvalidReadM3 file sub => readReq (hdrExt false file sub 3#2) 0
  | .fcTxrxoff => frameReq (hdrFast c.FC.TXRXOFF) []
  | .fcTx => frameReq (hdrFast c.FC.TX) []
  | .fcRx => frameReq (hdrFast c.FC.RX) []
  | .fcDtx => frameReq (hdrFast c.FC.DTX) []
  | .fcDrx => frameReq (hdrFast c.FC.DRX) []
  | .fcDtxTs => frameReq (hdrFast c.FC.DTX_TS) []
  | .fcDrxTs => frameReq (hdrFast c.FC.DRX_TS) []
  | .fcDtxRs => frameReq (hdrFast c.FC.DTX_RS) []
  | .fcDrxRs => frameReq (hdrFast c.FC.DRX_RS) []
  | .fcDtxRef => frameReq (hdrFast c.FC.DTX_REF) []
  | .fcDrxRef => frameReq (hdrFast c.FC.DRX_REF) []
  | .fcCcaTx => frameReq (hdrFast c.FC.CCA_TX) []
  | .fcTxW4r => frameReq (hdrFast c.FC.TX_W4R) []
  | .fcDtxW4r => frameReq (hdrFast c.FC.DTX_W4R) []
  | .fcDtxTsW4r => frameReq (hdrFast c.FC.DTX_TS_W4R) []
  | .fcDtxRsW4r => frameReq (hdrFast c.FC.DTX_RS_W4R) []
  | .fcDtxRefW4r => frameReq (hdrFast c.FC.DTX_REF_W4R) []
  | .fcCcaTxW4r => frameReq (hdrFast c.FC.CCA_TX_W4R) []
  | .fcDbToggle => frameReq (hdrFast c.FC.DB_TOGGLE) []
  | .fcSemaReq => frameReq (hdrFast c.FC.SEMA_REQ) []
  | .fcSemaRel => frameReq (hdrFast c.FC.SEMA_REL) []
  | .fcSemaForce => frameReq (hdrFast c.FC.SEMA_FORCE) []
  | .fcSoftResetSem => frameReq (hdrFast c.FC.SOFT_RESET_SEM) []
  | .fcSoftResetNoSem => frameReq (hdrFast c.FC.SOFT_RESET_NO_SEM) []
  | .fcEnterSleep => frameReq (hdrFast c.FC.ENTER_SLEEP) []
  | .fcReserved12 => frameReq (hdrFast 0x12#5) []
  | .fcReserved17 => frameReq (hdrFast 0x17#5) []
  | .fcReserved1B => frameReq (hdrFast 0x1B#5) []
  | .fcReserved1C => frameReq (hdrFast 0x1C#5) []
  | .fcReserved1D => frameReq (hdrFast 0x1D#5) []
  | .fcReserved1E => frameReq (hdrFast 0x1E#5) []
  | .fcReserved1F => frameReq (hdrFast 0x1F#5) []
  | .init => .cmd { op := 0x00 }
  | .deinit => .cmd { op := 0x01 }
  | .setChannel ch => .cmd { op := 0x02, v0 := ch.setWidth 32 }
  | .setSts mode len => .cmd { op := 0x03, v0 := mode.setWidth 32, v1 := len.setWidth 32 }
  | .setCrcMode m => .cmd { op := 0x04, v0 := m.setWidth 32 }
  | .setFceDis b => .cmd { op := 0x05, v0 := flagWord b }
  | .setZeroLenOk b => .cmd { op := 0x06, v0 := flagWord b }
  | .setLongFrames b => .cmd { op := 0x07, v0 := flagWord b }
  | .setCallback id present => .cmd { op := 0x08, v0 := id.setWidth 32, v1 := flagWord present }
  | .irqSrcModify and or => .cmd { op := 0x09, v0 := and, v1 := or }
  | .transact addr offset len mode fast buf => .cmd { op := 0x10, addr, offset, len, mode, fast, buf }
  | .read8 addr offset => .cmd { op := 0x11, addr, offset }
  | .read16 addr offset => .cmd { op := 0x12, addr, offset }
  | .read32 addr offset => .cmd { op := 0x13, addr, offset }
  | .write8 addr offset v => .cmd { op := 0x14, addr, offset, v0 := v.setWidth 32 }
  | .write16 addr offset v => .cmd { op := 0x15, addr, offset, v0 := v.setWidth 32 }
  | .write32 addr offset v => .cmd { op := 0x16, addr, offset, v0 := v }
  | .modify8 addr offset and or => .cmd { op := 0x17, addr, offset, v0 := and.setWidth 32, v1 := or.setWidth 32 }
  | .modify16 addr offset and or => .cmd { op := 0x18, addr, offset, v0 := and.setWidth 32, v1 := or.setWidth 32 }
  | .modify32 addr offset and or => .cmd { op := 0x19, addr, offset, v0 := and, v1 := or }
  | .fastcmd addr => .cmd { op := 0x20, addr }
  | .startTx mode => .cmd { op := 0x30, mode := mode.setWidth 16 }
  | .startRx mode => .cmd { op := 0x31, mode := mode.setWidth 16 }
  | .forceTrxOff => .cmd { op := 0x32 }
  | .dblEnable auto => .cmd { op := 0x40, v0 := flagWord auto }
  | .dblDisable => .cmd { op := 0x41 }
  | .signalBufferFree => .cmd { op := 0x42 }
  | .isrPass => .cmd { op := 0x50 }
  | .cmdReserved op => .cmd { op }

/-- The reading of any input that is an instruction; a handler's return is none. -/
def decode (c : Cfg) : Input → Option Decoded
  | .cmd r => some (.instr (decodeCmd r))
  | .frame r => some (decodeFrameReq c r)
  | .ret => none

/-! ## Pseudo-operations (30_encoding.md R117), each one operation of R112 -/

/-- `andN a o m = modifyN a o m 0`. -/
def and8 (a : Word) (o : Half) (m : Byte) : Instr := .modify8 a o m 0
def and16 (a : Word) (o m : Half) : Instr := .modify16 a o m 0
def and32 (a : Word) (o : Half) (m : Word) : Instr := .modify32 a o m 0

/-- `orN a o m = modifyN a o ones_N m`. -/
def or8 (a : Word) (o : Half) (m : Byte) : Instr := .modify8 a o 0xFF#8 m
def or16 (a : Word) (o m : Half) : Instr := .modify16 a o 0xFFFF#16 m
def or32 (a : Word) (o : Half) (m : Word) : Instr := .modify32 a o 0xFFFFFFFF#32 m

/-- `setbitN a o i = orN a o (1 << i)`. -/
def setbit8 (a : Word) (o : Half) (i : Nat) : Instr := or8 a o (1#8 <<< i)
def setbit16 (a : Word) (o : Half) (i : Nat) : Instr := or16 a o (1#16 <<< i)
def setbit32 (a : Word) (o : Half) (i : Nat) : Instr := or32 a o (1#32 <<< i)

/-- `clrbitN a o i = andN a o ~(1 << i)`. -/
def clrbit8 (a : Word) (o : Half) (i : Nat) : Instr := and8 a o (~~~(1#8 <<< i))
def clrbit16 (a : Word) (o : Half) (i : Nat) : Instr := and16 a o (~~~(1#16 <<< i))
def clrbit32 (a : Word) (o : Half) (i : Nat) : Instr := and32 a o (~~~(1#32 <<< i))

/-! ## Words of the opcode table (log 7) -/

/-- The zero payload bytes the table's word of a header needs to be a frame: the two masks of a modify, one byte of a plain write. -/
def zeroPayload (bytes : List Byte) : List Byte :=
  let b0 := byteAt bytes 0
  if !b0.getLsbD 7 then []
  else if b0.getLsbD 6 then
    match (byteAt bytes 1).extractLsb' 0 2 with
    | 0#2 => [0]
    | 1#2 => List.replicate 2 0
    | 2#2 => List.replicate 4 0
    | _ => List.replicate 8 0
  else if b0.getLsbD 0 then [] else [0]

/-- The request for the frame whose header bytes are given, with operands of zero and one byte to read. -/
def headerInput (bytes : List Byte) : Input :=
  .frame { bytes := bytes ++ zeroPayload bytes, rlen := 1 }

/-- The request that a word of the opcode table stands for: 16 bits are a two-byte header, byte 0 in bits 15:8; 8 bits
are an op code of R112 where they are one, else a one-byte header (DESIGN CHOICE, log 7). -/
def tableInput (nbits w : Nat) : Option Input :=
  if nbits = 16 then some (headerInput [BitVec.ofNat 8 (w / 256), BitVec.ofNat 8 w])
  else if nbits = 8 then
    let b := BitVec.ofNat 8 w
    some (if opCodes.contains b then .cmd { op := b } else headerInput [b])
  else none

/-- The instruction the decoder reads from a word of the opcode table, under RM0. -/
def decodeTableWord (nbits w : Nat) : Option Instr :=
  match tableInput nbits w with
  | none => none
  | some inp =>
    match decode Config.RM0 inp with
    | some (.instr i) => some i
    | some (.rejected _) | none => none

end Sys2Proof
end

