-- ==== Sys2Proof/Machine/Operands.lean ====
section
/-! DEFINITION. Operand forms: the effective address and its split (30_encoding.md R91), the mode word of `transact`
(R110), the mode bitsets of the starts (R113, R114), the start commands (42_fastcmd.md R231), callback ids, and the
configuration values that a rule selects by the context. -/

namespace Sys2Proof.Machine

/-! ## Addresses -/

/-- R91: `c = addr + zext_32(offset)`, wrapping. -/
def combined (addr : Word) (offset : Half) : Word :=
  addr + offset.setWidth 32

/-- R91: `file = c[20:16]`. -/
def fileOf (c : Word) : File :=
  c.extractLsb' 16 5

/-- R91: `sub = c[6:0]`. -/
def subOf (c : Word) : Sub :=
  c.extractLsb' 0 7

/-- R144: the header of an access. -/
def accessHdr (k : Kind) (addr : Word) (offset : Half) : List Byte :=
  headerOf k (fileOf (combined addr offset)) (subOf (combined addr offset))

/-- The address operand of a bus frame row: `file << 16 | sub` (20_memory.md R70; log 6). -/
def frameAddr (file : File) (sub : Sub) : Word :=
  file.setWidth 32 <<< 16 ||| sub.setWidth 32

/-- R149: the check of a read is skipped iff its `addr` operand is `REG.CRC_ECHO`. -/
def checkedAddr (c : Cfg) (addr : Word) : Bool :=
  addr != c.REG.CRC_ECHO

/-! ## Requests of `transact` -/

/-- R110, R111: the kind of a mode word and fast flag; none when unrecognized (log 23 for the flag). -/
def kindOf (mode : Half) (fast : Bool) : Option Kind :=
  if fast then (if mode == 0x8000#16 then some .fast else none)
  else if mode == 0x0000#16 then some .read
  else if mode == 0x8000#16 then some .write
  else if mode == 0x8001#16 then some .mod8
  else if mode == 0x8002#16 then some .mod16
  else if mode == 0x8003#16 then some .mod32
  else none

/-- R141 (b) to (e): a request of a recognized kind is admitted. -/
def admitted (c : Cfg) (k : Kind) (addr : Word) (offset len : Half) (buf : List Byte) : Bool :=
  match k with
  | .fast => len == 0 && addr < 32 && offset == 0 && buf.length == 0
  | .read => lenWf c len.toNat
  | .write => lenWf c len.toNat && buf.length == len.toNat
  | .mod8 | .mod16 | .mod32 => lenWf c len.toNat && len.toNat == k.modLen && buf.length == len.toNat

/-! ## Mode bitsets -/

/-- The flavour named by the bits `Delayed`, `DlyRef`, `DlyRxTs`, `DlyTxTs`, `Cca` (bits 0, 2, 3, 4, 5 of the mode); none when more than one is set. -/
def flavourOf (delayed dlyRef dlyRxTs dlyTxTs cca : Bool) : Option Flavour :=
  match delayed, dlyRef, dlyRxTs, dlyTxTs, cca with
  | false, false, false, false, false => some .immediate
  | true, false, false, false, false => some .delayed
  | false, true, false, false, false => some .dlyRef
  | false, false, true, false, false => some .dlyRxTs
  | false, false, false, true, false => some .dlyTxTs
  | false, false, false, false, true => some .cca
  | _, _, _, _, _ => none

/-- R242: `start_tx`'s mode; none when `mode[7:6] != 0` or more than one flavour bit is set. -/
def txStart (mode : Byte) : Option Start :=
  if mode.getLsbD 7 || mode.getLsbD 6 then none
  else
    match flavourOf (mode.getLsbD 0) (mode.getLsbD 2) (mode.getLsbD 3) (mode.getLsbD 4) (mode.getLsbD 5) with
    | some flv => some { tx := true, flv, opt := mode.getLsbD 1 }
    | none => none

/-- R251: `start_rx`'s mode; none when `mode[7:5] != 0` or more than one flavour bit is set. -/
def rxStart (mode : Byte) : Option Start :=
  if mode.getLsbD 7 || mode.getLsbD 6 || mode.getLsbD 5 then none
  else
    match flavourOf (mode.getLsbD 0) (mode.getLsbD 2) (mode.getLsbD 3) (mode.getLsbD 4) false with
    | some flv => some { tx := false, flv, opt := mode.getLsbD 1 }
    | none => none

/-- The flavour is relative to a timestamp, so the antenna delay is subtracted (R245, R255). -/
def Flavour.timestamped : Flavour → Bool
  | .dlyRxTs | .dlyTxTs => true
  | .immediate | .delayed | .dlyRef | .cca => false

/-- The flavour is one of the four delayed ones, whose lateness is checked (R247, R255). -/
def Flavour.isDelayed : Flavour → Bool
  | .delayed | .dlyRef | .dlyRxTs | .dlyTxTs => true
  | .immediate | .cca => false

/-- `txcmd(flavour, w4r)` (42_fastcmd.md R231). -/
def txcmd (c : FastCodes) (flv : Flavour) (w4r : Bool) : File :=
  match flv, w4r with
  | .immediate, false => c.TX
  | .immediate, true => c.TX_W4R
  | .delayed, false => c.DTX
  | .delayed, true => c.DTX_W4R
  | .dlyTxTs, false => c.DTX_TS
  | .dlyTxTs, true => c.DTX_TS_W4R
  | .dlyRxTs, false => c.DTX_RS
  | .dlyRxTs, true => c.DTX_RS_W4R
  | .dlyRef, false => c.DTX_REF
  | .dlyRef, true => c.DTX_REF_W4R
  | .cca, false => c.CCA_TX
  | .cca, true => c.CCA_TX_W4R

/-- `rxcmd(flavour)` (42_fastcmd.md R231); `cca` is no flavour of a receive (R251), its row is the immediate one. -/
def rxcmd (c : FastCodes) (flv : Flavour) : File :=
  match flv with
  | .immediate | .cca => c.RX
  | .delayed => c.DRX
  | .dlyTxTs => c.DRX_TS
  | .dlyRxTs => c.DRX_RS
  | .dlyRef => c.DRX_REF

/-- The start command of a `start_tx` or `start_rx` (R246, R254, R255). -/
def Start.code (c : FastCodes) (st : Start) : File :=
  if st.tx then txcmd c st.flv st.opt else rxcmd c st.flv

/-- The antenna-delay register of a timestamped flavour (R245: `DlyRxTs` the RX one, `DlyTxTs` the TX one). -/
def antReg (c : Cfg) (flv : Flavour) : Word :=
  if flv == .dlyRxTs then c.REG.RX_ANTD else c.REG.TX_ANTD

/-- `Cfg.ant_dly_to_dx` (43_trx_sequencer.md R243; log 3). -/
def antDlyToDx (c : Cfg) (a : Half) : Word :=
  match c.ANT_DLY_TO_DX with
  | .opened => Config.antDlyToDx a
  | .zext32 => a.setWidth 32

/-- R243: `dx - Cfg.ant_dly_to_dx(a)`, wrapping (30_encoding.md R120 (f)). -/
def correctedDelay (c : Cfg) (dx : Word) (a : Half) : Word :=
  dx - antDlyToDx c a

/-- R247: the half-period-warning bit in the upper status byte, `b & (M.HPDWARN >> 24) != 0`. -/
def isLate (c : Cfg) (b : Byte) : Bool :=
  anySet b (c.M.HPDWARN.extractLsb' 24 8)

/-- `Cfg.is_idle_class` (43_trx_sequencer.md R262; log 4). -/
def isIdleClass (c : Cfg) (v : Byte) : Bool :=
  c.IS_IDLE_CLASS.getLsbD v.toNat

/-! ## Values selected by the context -/

/-- `finfo_addr(ctx)` (20_memory.md R72). -/
def finfoAddr (c : Cfg) (x : Ctx) : Word :=
  match x.dbl with
  | .off => c.REG.FINFO
  | .buffer0 => c.REG.FINFO_B0
  | .buffer1 => c.REG.FINFO_B1

/-- `lenmask(ctx)` (10_state.md R28). -/
def lenmask (c : Cfg) (x : Ctx) : Half :=
  if x.longFrames then c.LEN_MASK_LONG else c.LEN_MASK_STD

/-- `nd(ctx)`, the no-data STS mode (10_state.md R23). -/
def noDataMode (c : Cfg) (x : Ctx) : Bool :=
  (x.stsMode &&& c.STS_ND_MASK) == c.STS_ND_MASK

/-- The byte length of the high status word (45_event_classifier.md R300: `readHI`, `writeHI`). -/
def hiLen (c : Cfg) : Nat :=
  if c.STATUS_HI_WIDTH = 16 then 2 else 4

/-- The high status word of the bytes read (log 25). -/
def hiOf (c : Cfg) (d : List Byte) : Word :=
  if c.STATUS_HI_WIDTH = 16 then (unLE16 d).setWidth 32 else unLE32 d

/-- The bytes of a high status word to write (log 25). -/
def hiBytes (c : Cfg) (v : Word) : List Byte :=
  if c.STATUS_HI_WIDTH = 16 then le16 (v.setWidth 16) else le32 v

/-- The sub-status byte's clear mask for the current buffer (45_event_classifier.md R322). -/
def subClear (c : Cfg) (d : Dbl) : Byte :=
  if d == .buffer1 then c.M.DB_CLR <<< 4 else c.M.DB_CLR

/-- The modify masks of `dbl_enable`, AND then OR (44_dblbuf.md R280). -/
def enableMasks (c : Cfg) (auto : Bool) : Word × Word :=
  if auto then (~~~c.M.DIS_DRXB, c.M.RXAUTR) else (~~~c.M.DIS_DRXB &&& ~~~c.M.RXAUTR, 0)

/-- The other buffer (44_dblbuf.md R286: `ctx.dbl = Buffer0 ? Buffer1 : Buffer0`; log 24 for `Off`). -/
def Dbl.other (d : Dbl) : Dbl :=
  if d == .buffer0 then .buffer1 else .buffer0

/-- Double buffering is active: `ctx.dbl != Off`. -/
def Dbl.active (d : Dbl) : Bool :=
  d != .off

/-- `set_crc_mode`'s operand (46_context_ops.md R355); none for 3. -/
def crcModeOf (m : BitVec 2) : Option CrcMode :=
  if m == 0 then some .off else if m == 1 then some .write else if m == 2 then some .writeRead else none

/-- The id of a callback (46_context_ops.md R359). -/
def CallbackId.num : CallbackId → Nat
  | .onTxDone => 0
  | .onRxOk => 1
  | .onRxError => 2
  | .onRxTimeout => 3
  | .onSpiReady => 4
  | .onSpiError => 5
  | .onSpiReadCrcError => 6
  | .onDualSpiEvent => 7

/-- The callback table with the entry `id` present or absent (46_context_ops.md R359). -/
def withCallback (cb : Byte) (id : BitVec 3) (present : Bool) : Byte :=
  if present then cb ||| (1#8 <<< id.toNat) else cb &&& ~~~(1#8 <<< id.toNat)

/-- The entry of a callback is present. -/
def Ctx.has (x : Ctx) (f : CallbackId) : Bool :=
  x.cb.getLsbD f.num

/-- The data an operation returns (41_accessors.md R170 to R172, 40_codec.md R140). -/
def RetKind.value (k : RetKind) (d : List Byte) : Value :=
  match k with
  | .bits8 => .bits8 (byteAt d 0)
  | .bits16 => .bits16 (unLE16 d)
  | .bits32 => .bits32 (unLE32 d)
  | .bytes => .bytes d

/-- The result codes of 60_exceptions.md R370. -/
def Result.code : Result → Nat
  | .ok _ => 0
  | .err .busError => 1
  | .err .protocolError => 2
  | .err .late => 3
  | .err .timeout => 4
  | .err .invalidArgument => 5
  | .err .crcMismatch => 6

end Sys2Proof.Machine
end

