-- ==== Sys2Proof/Machine/Chip.lean ====
section
/-! DEFINITION. The reference responder `ChipRef` (20_memory.md R82) with the assumptions on the chip it embodies
(R80, R81), the semaphore's owner (42_fastcmd.md R224 to R226), and the transport: how a frame is delivered and
answered (00_scope.md R9). -/

namespace Sys2Proof.Machine

/-! ## Registers of the responder -/

/-- The address of a register's first byte in the byte store. -/
def regKey (a : Word) : Nat :=
  cellKey (fileOf a) (subOf a).toNat

/-- `n` bytes of a register. -/
def regBytes (x : Chip) (a : Word) (n : Nat) : List Byte :=
  readBytes x.mem (fileOf a) (subOf a).toNat n

/-- The stored low status word. -/
def chipStatusLo (c : Cfg) (x : Chip) : Word :=
  unLE32 (regBytes x c.REG.STATUS_LO 4)

/-- The stored high status word. -/
def chipStatusHi (c : Cfg) (x : Chip) : Word :=
  hiOf c (regBytes x c.REG.STATUS_HI (hiLen c))

/-- The current buffer's half of the stored sub-status byte. -/
def chipSubHalf (c : Cfg) (x : Chip) : Byte :=
  let raw := byteAt (regBytes x c.REG.RDB_STATUS 1) 0
  match x.hwbuf with
  | .buf0 => raw &&& 0x0F#8
  | .buf1 => raw >>> 4

/-- R82: the RX-ok condition, of the low status word or of the current half of the sub-status byte. -/
def chipRxOk (c : Cfg) (x : Chip) : Bool :=
  let lo := chipStatusLo c x
  let h := chipSubHalf c x
  anySet lo c.M.RXFCG || (anySet lo c.M.RXFR && anySet lo c.M.CIADONE) ||
    anySet h c.M.DB_FCG || (anySet h c.M.DB_FR && anySet h c.M.DB_CIADONE)

/-- A mask, when its condition holds. -/
def maskIf (b : Bool) (m : Byte) : Byte :=
  if b then m else 0

/-- R82: `REG.FSTAT` reads as the OR-reduction of the groups. -/
def fastStatus (c : Cfg) (x : Chip) : Byte :=
  let lo := chipStatusLo c x
  maskIf (anySet lo c.M.ALL_TX) c.M.F_TXOK ||| maskIf (chipRxOk c x) c.M.F_RXOK |||
    maskIf (anySet lo c.M.RX_ERR) c.M.F_RXERR ||| maskIf (anySet lo c.M.RX_TO) c.M.F_RXTO |||
    maskIf (anySet lo c.M.SYS_EVT_CLR) c.M.F_SYSEVT |||
    maskIf (anySet lo c.M.SPICRCE || anySet (chipStatusHi c x) (c.M.HI_SPI_ERR ||| c.M.HI_CMD_ERR)) c.M.F_PANIC

/-- R82: the coarse device-state byte. -/
def trxByte : TrxState → Byte
  | .idle | .idleRC | .idlePLL => 0x03#8
  | .transmitting => 0x08#8
  | .receiving => 0x12#8

/-- The address of the coarse device-state byte. -/
def stateKey (c : Cfg) : Nat :=
  regKey (combined c.REG.SYS_STATE c.STATE_BYTE_OFF)

/-- What one address reads as: the fast status and the device state are computed, the rest is stored. -/
def chipByte (c : Cfg) (x : Chip) (k : Nat) : Byte :=
  if k = regKey c.REG.FSTAT then fastStatus c x
  else if k = stateKey c then trxByte x.trx
  else readByte x.mem k

/-- An access starts at the CRC-echo register. -/
def isEchoAccess (c : Cfg) (file : File) (sub : Sub) : Bool :=
  file == fileOf c.REG.CRC_ECHO && sub == subOf c.REG.CRC_ECHO

/-- R82: the bytes a read returns. -/
def chipReadBytes (c : Cfg) (x : Chip) (file : File) (sub : Sub) (n : Nat) : List Byte :=
  (List.range n).map fun i =>
    if i = 0 && isEchoAccess c file sub then x.echo else chipByte c x (cellKey file (sub.toNat + i))

/-! ## What a frame does (20_memory.md R82) -/

/-- The write-one-to-clear registers (R80) with their lengths in bytes. -/
def w1cRegs (c : Cfg) : List (Word × Nat) :=
  [(c.REG.STATUS_LO, 4), (c.REG.STATUS_HI, hiLen c), (c.REG.RDB_STATUS, 1), (c.REG.DSS_STAT, 1)]

/-- The address belongs to a write-one-to-clear register (log 10). -/
def isW1c (c : Cfg) (k : Nat) : Bool :=
  (w1cRegs c).any fun p => decide (regKey p.1 ≤ k) && decide (k < regKey p.1 + p.2)

/-- R80, R82: the value a written byte leaves, `old & ~w` in a write-one-to-clear register, `w` elsewhere. -/
def writtenByte (c : Cfg) (m : Memory) (k : Nat) (b : Byte) : Byte :=
  if isW1c c k then readByte m k &&& ~~~b else b

/-- The values a write leaves from offset `off` on. -/
def writtenBytes (c : Cfg) (m : Memory) (file : File) (off : Nat) : List Byte → List Byte
  | [] => []
  | b :: rest => writtenByte c m (cellKey file off) b :: writtenBytes c m file (off + 1) rest

/-- R179: `(old & and) | or`, bytewise, from offset `off` on. -/
def modifiedBytes (m : Memory) (file : File) (off : Nat) : List Byte → List Byte → List Byte
  | a :: as, o :: os => (readByte m (cellKey file off) &&& a ||| o) :: modifiedBytes m file (off + 1) as os
  | [], _ | _ :: _, [] => []

/-- The TX start codes (42_fastcmd.md R204 to R220). -/
def txCodes (c : FastCodes) : List File :=
  [c.TX, c.DTX, c.DTX_TS, c.DTX_RS, c.DTX_REF, c.CCA_TX] ++
  [c.TX_W4R, c.DTX_W4R, c.DTX_TS_W4R, c.DTX_RS_W4R, c.DTX_REF_W4R, c.CCA_TX_W4R]

/-- The RX start codes (42_fastcmd.md R205 to R213). -/
def rxCodes (c : FastCodes) : List File :=
  [c.RX, c.DRX, c.DRX_TS, c.DRX_RS, c.DRX_REF]

/-- R82: the TX/RX state after a fast command. -/
def trxAfter (c : FastCodes) (code : File) (t : TrxState) : TrxState :=
  if code == c.TXRXOFF then .idle
  else if (txCodes c).contains code then .transmitting
  else if (rxCodes c).contains code then .receiving
  else t

/-- R82: `FC.DB_TOGGLE` sets `hwbuf <- 1 - hwbuf`. -/
def hwbufAfter (c : FastCodes) (code : File) (h : HwBuf) : HwBuf :=
  if code == c.DB_TOGGLE then (match h with | .buf0 => .buf1 | .buf1 => .buf0) else h

/-- 42_fastcmd.md R224 to R226: request (grant rule open), release, take (log 12). -/
def semAfter (c : FastCodes) (t : Nat) (code : File) (o : SemOwner) : SemOwner :=
  if code == c.SEMA_REQ then Config.semAfterRequest t o
  else if code == c.SEMA_REL then (if o = .thisHost then .nobody else o)
  else if code == c.SEMA_FORCE then .thisHost
  else o

/-- R82, R230: a fast command is logged and has its immediate effect. -/
def chipFast (c : FastCodes) (t : Nat) (code : File) (x : Chip) : Chip :=
  { x with
    log := x.log ++ [code]
    trx := trxAfter c code x.trx
    hwbuf := hwbufAfter c code x.hwbuf
    sem := semAfter c t code x.sem }

/-- R82: a mismatched trailer ors `M.SPICRCE` into the stored low status word. -/
def flagSpiCrc (c : Cfg) (x : Chip) : Chip :=
  let flagged := le32 (chipStatusLo c x ||| c.M.SPICRCE)
  { x with mem := storeBytes x.mem (fileOf c.REG.STATUS_LO) (subOf c.REG.STATUS_LO).toNat flagged }

/-- R81, R82: a read returns its bytes and leaves the CRC over header and data in the echo register, unless it reads that register itself. -/
def chipRead (c : Cfg) (hdr : List Byte) (f : Frame) (n : Nat) (x : Chip) : Chip × List Byte :=
  let d := chipReadBytes c x f.file f.sub n
  (if isEchoAccess c f.file f.sub then x else { x with echo := crc8 c (hdr ++ d) }, d)

/-- R82: what a decoded frame does; `t` is the number of the transaction. -/
def chipFrame (c : Cfg) (t : Nat) (hdr : List Byte) (f : Frame) (n : Nat) (x : Chip) : Chip × List Byte :=
  match f.kind with
  | .read => chipRead c hdr f n x
  | .write =>
    let bytes := writtenBytes c x.mem f.file f.sub.toNat f.payload
    ({ x with mem := storeBytes x.mem f.file f.sub.toNat bytes }, [])
  | .mod8 | .mod16 | .mod32 =>
    let k := f.kind.modLen / 2
    let bytes := modifiedBytes x.mem f.file f.sub.toNat (f.payload.take k) (f.payload.drop k)
    ({ x with mem := storeBytes x.mem f.file f.sub.toNat bytes }, [])
  | .fast => (chipFast c.FC t f.file x, [])

/-- R431: a write-class frame that R105 calls invalid for its length, because the trailer the chip expects is not there:
no trailer at all, or a last byte that is not the CRC of what precedes it (log 36). -/
def trailerMissing (c : Cfg) (crcOn : Bool) (frame : List Byte) (e : FrameErr) : Bool :=
  match e with
  | .missingTrailer => true
  | .fastWithPayload | .modifyPayloadLength => crcOn && crc8 c frame.dropLast != frame.getLastD 0
  | .emptyFrame | .truncatedHeader | .fastWithReadBit _ | .readWithModifyWidth .. | .readWithPayload => false

/-- R82: the responder decodes the frame by 30_encoding.md R105, with its own CRC configuration (R99, R431; log 36), and
acts; an invalid frame does nothing but report a missing trailer. -/
def chipTake (c : Cfg) (t : Nat) (frame : List Byte) (n : Nat) (x : Chip) : Chip × List Byte :=
  match decodeFrame c x.crcOn frame with
  | .invalid e => (if trailerMissing c x.crcOn frame e then flagSpiCrc c x else x, [])
  | .frame f =>
    let y := chipFrame c t frame f n x
    if f.crcOk then y else (flagSpiCrc c y.1, y.2)

/-! ## The transport -/

/-- R82: the IRQ line follows the fast status of the responder; under the oracle it is the environment's. -/
def senseIrq (c : Cfg) (e : Env) : Env :=
  match e.responder with
  | .chipRef => { e with irq := fastStatus c e.chip != 0 }
  | .oracle => e

/-- The free answer to the transaction number `t`. -/
def oracleReply (t n : Nat) : Reply :=
  if Config.oracleFails t then .fail (Config.oracleReached t)
  else .data ((List.range n).map (Config.oracleByte t))

/-- The answer the port gives next: the scripted one, else the responder's. -/
def nextReply (n : Nat) (e : Env) : Reply :=
  match e.replies with
  | r :: _ => r
  | [] =>
    match e.responder with
    | .chipRef => .chip
    | .oracle => oracleReply e.txn n

/-- Exactly `n` bytes: "`Ok` (with `n` bytes for a read)" (00_scope.md R9; log 26). -/
def fitBytes (t n : Nat) (d : List Byte) : List Byte :=
  (List.range n).map fun i => d.getD i (Config.oracleByte t i)

/-- One bus transaction: the frame reaches the chip unless the transport lost it, and the port answers `Ok` with `n`
bytes, or `BusError` (none). -/
def transfer (c : Cfg) (frame : List Byte) (n : Nat) (e : Env) : Option (List Byte) × Env :=
  let y := chipTake c e.txn frame n e.chip
  let e1 := { e with replies := e.replies.tail, txn := e.txn + 1 }
  match nextReply n e with
  | .chip => (some (fitBytes e.txn n y.2), senseIrq c { e1 with chip := y.1 })
  | .data d => (some (fitBytes e.txn n d), senseIrq c { e1 with chip := y.1 })
  | .fail reached => (none, if reached then senseIrq c { e1 with chip := y.1 } else e1)

/-- The chip after what it does by itself at a boundary (20_memory.md R75, 43_trx_sequencer.md R240; log 13). -/
def chipMoves (b : Boundary) (x : Chip) : Chip :=
  { x with
    mem := pokeAll x.mem b.pokes
    trx := b.trx.getD x.trx
    hwbuf := b.hwbuf.getD x.hwbuf
    crcOn := b.crcOn.getD x.crcOn
    echo := b.echo.getD x.echo
    sem := b.sem.getD x.sem }

/-- What the chip does at a boundary: it moves, and drives the IRQ line (20_memory.md R75; log 13). -/
def chipEvents (c : Cfg) (b : Boundary) (e : Env) : Env :=
  let e1 := senseIrq c { e with chip := chipMoves b e.chip }
  match b.irq with
  | none => e1
  | some level => { e1 with irq := level }

end Sys2Proof.Machine
end

