-- ==== Sys2Proof/Machine/Flags.lean ====
section
/-! DEFINITION. The classifier's tests and the condition flags of the event record: the merge of the sub-status
(45_event_classifier.md R303, R304), the gates of the groups (R305 to R331), and what each group writes into
`rec.flags` (10_state.md R31). -/

namespace Sys2Proof.Machine

/-! ## Capture -/

/-- R303: the current buffer's half of the sub-status byte. -/
def subHalf (d : Dbl) (raw : Byte) : Byte :=
  if d == .buffer1 then raw >>> 4 else raw &&& 0x0F#8

/-- One line of the merge: `if sdb & m != 0: st <- st | bit`. -/
def mergeBit (sdb m : Byte) (bit st : Word) : Word :=
  if anySet sdb m then st ||| bit else st

/-- R304: the three sub-status bits merged into the low status word. -/
def mergeSub (c : Cfg) (sdb : Byte) (st : Word) : Word :=
  mergeBit sdb c.M.DB_CIADONE c.M.CIADONE (mergeBit sdb c.M.DB_FR c.M.RXFR (mergeBit sdb c.M.DB_FCG c.M.RXFCG st))

/-! ## Gates -/

/-- R307: sub-cause 2a qualifies. -/
def spiErrQualifies (c : Cfg) (v : Snap) : Bool :=
  anySet v.st c.M.SPICRCE || anySet v.hi c.M.HI_SPI_ERR

/-- R308: sub-cause 2b qualifies. -/
def cmdErrQualifies (c : Cfg) (v : Snap) : Bool :=
  anySet v.hi c.M.HI_CMD_ERR

/-- R314: the benign test reads the frame-info word. -/
def benignReads (c : Cfg) (x : Ctx) (v : Snap) : Bool :=
  anySet v.st c.M.RXFCE && x.zeroLenOk

/-- R313: group 5 qualifies. -/
def rxQualifies (c : Cfg) (v : Snap) : Bool :=
  anySet v.fstat c.M.F_RXOK || v.benign

/-- R318: the reception is marked as no-data. -/
def isNoData (c : Cfg) (x : Ctx) (v : Snap) : Bool :=
  noDataMode c x || v.benign

/-- R319: the length is read. -/
def lengthReads (c : Cfg) (x : Ctx) (v : Snap) : Bool :=
  anySet v.st c.M.RXFCG || (anySet v.st c.M.RXFR && x.fceDis)

/-- R328: group 6 qualifies: its gate, unless the absorbed frame-check error explains it entirely. -/
def rxErrQualifies (c : Cfg) (v : Snap) : Bool :=
  anySet v.fstat c.M.F_RXERR && !(v.absorbed != 0 && (v.st &&& c.M.RX_ERR &&& ~~~v.absorbed) == 0)

/-! ## Flags -/

/-- R316: the CIA and STS flags are set, never cleared, by the snapshot. -/
def RecFlags.accumulate (f : RecFlags) (c : Cfg) (st : Word) : RecFlags :=
  { f with
    ciaErr := f.ciaErr || anySet st c.M.CIAERR
    ciaDone := f.ciaDone || anySet st c.M.CIADONE
    stsErr := f.stsErr || anySet st c.M.CPERR }

/-- R318: the record of a no-data reception. -/
def EventRec.markNoData (r : EventRec) : EventRec :=
  { r with datalen := 0, flags := { r.flags with noData := true } }

/-- R319, R320: the length and the ranging bit of the frame-info word. -/
def EventRec.withFrameInfo (r : EventRec) (c : Cfg) (x : Ctx) (fi : Half) : EventRec :=
  { r with datalen := fi &&& lenmask c x, rng := anySet fi c.RNG_MASK }

/-- R324: the reception is reclassified as a PHY-header error. -/
def EventRec.isPhrErr (r : EventRec) : Bool :=
  r.datalen == 0 && !r.flags.noData

/-- R324: the PHY-header-error flag is set. -/
def EventRec.markPhrErr (r : EventRec) : EventRec :=
  { r with flags := { r.flags with phrErr := true } }

end Sys2Proof.Machine
end

