-- ==== Sys2Proof/Machine/Ops.lean ====
section
/-! DEFINITION. The shared operations of the block: messages, the two bus primitives with the CRC trailer
(40_codec.md R145, R146), the critical section (43_trx_sequencer.md R263), callbacks, the entry to a classifier pass
(60_exceptions.md R383, the block's one trap) and the return from it (R384), the end of an operation, the checks every
request meets (R378), and the power cycle (70_reset_and_hazards.md R410). -/

namespace Sys2Proof.Machine

/-- One action of the block (10_state.md R36), as the rules name it. -/
inductive Action where
  /-- a `transact(Read)`: header, whether the CRC check applies, length -/
  | read (hdr : List Byte) (checked : Bool) (n : Nat)
  /-- a write-class `transact`: header and payload -/
  | write (hdr body : List Byte)
  /-- a callback, if present -/
  | callback (f : CallbackId)
  /-- a context write, with no message -/
  | silent
  /-- `IrqSaveDisable` -/
  | maskOff
  /-- `IrqRestore` -/
  | maskOn (tok : Bool)
deriving DecidableEq, Repr

/-- What an action gives to what follows it. -/
inductive ActResult where
  | ok
  | data (d : List Byte)
  | token (tok : Bool)
  /-- `BusError` -/
  | failed
deriving DecidableEq, Repr

/-- What follows an action: the next action, or the operation's end. -/
inductive Next where
  | goto (p : Point)
  | done (r : Result)
deriving DecidableEq, Repr

/-! ## Messages -/

/-- A message leaves a port. The trace is kept newest first (log 27). -/
def emit (e : Event) (s : State) : State :=
  { s with trace := e :: s.trace }

/-- The answer of an operation on the CMD port. -/
def answer (r : Result) (s : State) : State :=
  emit (.answer r) s

/-! ## Bus primitives -/

/-- R145, R146: the trailer of a write-class transaction, present when `ctx.crc_mode` is not `Off`. -/
def trailer (s : State) (hdr body : List Byte) : Option Byte :=
  if s.ctx.crcMode = .off then none else some (crc8 s.cfg (hdr ++ body))

/-- `BusWrite(hdr, body, crc)`: one transaction, and whether it answered `Ok`. The trailer follows `ctx.crc_mode`; whether
the chip expects one is the chip's own `crcOn` (R147, R431; log 36), which nothing here consults. -/
def busWrite (hdr body : List Byte) (s : State) : Bool × State :=
  let crc := trailer s hdr body
  let y := transfer s.cfg (hdr ++ body ++ crc.toList) 0 s.env
  (y.1.isSome, emit (.busWrite hdr body crc y.1.isSome) { s with env := y.2 })

/-- `BusRead(hdr, n)`: one transaction, and its bytes, none for `BusError`. A read carries no trailer (30_encoding.md R90). -/
def busRead (hdr : List Byte) (n : Nat) (s : State) : Option (List Byte) × State :=
  let y := transfer s.cfg hdr n s.env
  (y.1, emit (.busRead hdr n y.1) { s with env := y.2 })

/-! ## Critical section -/

/-- R263: `tok <- IrqSaveDisable(); seq.irq_masked <- true`. The token is the platform's mask, which closes. -/
def maskOff (s : State) : State :=
  emit (.irqSaveDisable s.env.platMask)
    { s with env := { s.env with platMask := true }, seq := { s.seq with irqMasked := true } }

/-- R263: `IrqRestore(tok); seq.irq_masked <- false`. The token puts the platform's mask back (R391). -/
def maskOn (tok : Bool) (s : State) : State :=
  emit (.irqRestore tok)
    { s with env := { s.env with platMask := tok }, seq := { s.seq with irqMasked := false } }

/-! ## Continuation -/

/-- The task waits for its next step. -/
def park (t : Task) (s : State) : State :=
  { s with stack := .task t :: s.stack }

/-- R390: the callback leaves on the EVT port with the record and the context, and its handler runs over the task. -/
def callHost (f : CallbackId) (t : Task) (s : State) : State :=
  emit (.callback f s.evt s.ctx) { s with stack := .handler f :: .task t :: s.stack }

/-! ## The pass as a trap -/

/-- The task is a classifier pass. -/
def Task.isPass (t : Task) : Bool :=
  t.owner != .cmd

/-- The entry is a pass in progress. -/
def Entry.isPass : Entry → Bool
  | .task t => t.isPass
  | .handler _ => false

/-- Some pass is in progress. -/
def hasPass (st : List Entry) : Bool :=
  st.any Entry.isPass

/-- The entry is a handler of the host. -/
def Entry.isHandler : Entry → Bool
  | .handler _ => true
  | .task _ => false

/-- A handler of the host runs. -/
def inCallback (st : List Entry) : Bool :=
  st.any Entry.isHandler

/-- An operation is in progress on top. -/
def topIsTask : List Entry → Bool
  | .task _ :: _ => true
  | .handler _ :: _ | [] => false

/-- R383, the entry sequence: `seq.in_pass <- true; rec <- zero`. Nothing is saved: the foreground stays on the stack. -/
def enterPass (s : State) : State :=
  { s with seq := { s.seq with inPass := true }, evt := EventRec.zero }

/-- R384, the return: `seq.in_pass <- false`. The next action of an operation it interrupted is now due (R429). -/
def leavePass (s : State) : State :=
  { s with seq := { s.seq with inPass := false }, served := topIsTask s.stack }

/-- The end of an operation or a pass with its result (R335 for a pass started by the IRQ port: nobody to answer). -/
def finish (o : Owner) (r : Result) (s : State) : State :=
  match o with
  | .cmd => answer r s
  | .passCmd => answer r (leavePass s)
  | .passIrq => leavePass s

/-- R381 (b): a pass may start from the IRQ port. While a handler of the host runs, the block performs no action (R390;
log 14). A pass is not re-entrant (R389), also after an `init` inside it has cleared `seq.in_pass` (46_context_ops.md R362;
the model's choice, log 38). After a pass the operation it interrupted takes an action first (R429; log 37). -/
def passMayStart (s : State) : Bool :=
  s.env.irq && s.ctx.live && !s.seq.inPass && !s.seq.irqMasked && !s.seq.halted && !hasPass s.stack && !s.served &&
    (match s.stack with
     | .handler _ :: _ => false
     | .task _ :: _ | [] => true)

/-! ## Requests -/

/-- R378, the checks (1) and (3): a halted block gives no answer at all, and every operation but `init` needs `ctx.live`. -/
def request (s : State) (k : State → Host.Outcome State Fault Refusal) : Host.Outcome State Fault Refusal :=
  if s.seq.halted then .fault .halted
  else if s.ctx.live then k s
  else .next (answer (.err .invalidArgument) s)

/-- An operation that answers at once. -/
def reply (r : Result) (s : State) : Host.Outcome State Fault Refusal :=
  .next (answer r s)

/-- 40_codec.md R143: `Err(ProtocolError)`, or with `HALT_ON_PROTOCOL_ERROR` the halt, with no answer. -/
def protocolError (s : State) : Host.Outcome State Fault Refusal :=
  if s.cfg.HALT_ON_PROTOCOL_ERROR then .next { s with seq := { s.seq with halted := true } }
  else reply (.err .protocolError) s

/-! ## Boundaries -/

/-- R410, R437: the block after a power cycle; the chip, the host and the platform are not the block's. -/
def powerCycle (s : State) : State :=
  { s with ctx := Ctx.powerOn, evt := EventRec.zero, seq := Sequencer.powerOn, stack := [], served := false }

/-- What the environment does at this boundary; nothing once the schedule is used up (log 13). -/
def boundary (s : State) : Boundary :=
  s.sched.headD {}

/-- The platform moves its own interrupt mask, which is "its own business" (60_exceptions.md R383); a critical section keeps
it closed (20_memory.md R76). The model's choice: log 39. -/
def platformMoves (b : Boundary) (inSection : Bool) (e : Env) : Env :=
  if inSection then e else { e with platMask := b.mask.getD e.platMask }

/-- The boundary is passed: its slot is used up, and the chip (20_memory.md R75) and the platform have acted. -/
def tick (s : State) : State :=
  match s.sched with
  | [] => s
  | b :: rest => { s with sched := rest, env := platformMoves b s.seq.irqMasked (chipEvents s.cfg b s.env) }

end Sys2Proof.Machine
end

