-- ==== Sys2Proof/Machine/Accesses.lean ====
section
/-! DEFINITION. The accessor calls inside operations (41_accessors.md R170 to R178, 42_fastcmd.md R200), as actions. -/

namespace Sys2Proof.Machine

/-- `transact(Read, addr, offset, n)`, with the exemption test on `addr` (40_codec.md R149). -/
def readAct (c : Cfg) (addr : Word) (offset : Half) (n : Nat) : Action :=
  .read (accessHdr .read addr offset) (checkedAddr c addr) n

/-- `transact(Write, addr, offset, |bytes|, bytes)`. -/
def writeAct (addr : Word) (offset : Half) (bytes : List Byte) : Action :=
  .write (accessHdr .write addr offset) bytes

/-- `modify8(addr, offset, and, or)` (R176). -/
def modify8Act (addr : Word) (offset : Half) (and or : Byte) : Action :=
  .write (accessHdr .mod8 addr offset) [and, or]

/-- `modify32(addr, offset, and, or)` (R178). -/
def modify32Act (addr : Word) (offset : Half) (and or : Word) : Action :=
  .write (accessHdr .mod32 addr offset) (le32 and ++ le32 or)

/-- `FastCmd(code)` (42_fastcmd.md R200). -/
def fastAct (code : File) : Action :=
  .write (hdrFast code) []

/-- An action that failed ends the operation with `Err(BusError)` (40_codec.md R151, 60_exceptions.md R377). -/
def busFail : Next :=
  .done (.err .busError)

/-- The operation ends with `Ok` and no data. -/
def doneOk : Next :=
  .done (.ok .unit)

/-- Go on at a point unless the action failed. -/
def orFail (r : ActResult) (n : Next) : Next :=
  if r = .failed then busFail else n

/-- The bytes a read gave; none for another result. -/
def ActResult.bytes : ActResult → List Byte
  | .data d => d
  | .ok | .token _ | .failed => []

end Sys2Proof.Machine
end

