-- ==== Sys2Proof/Machine/CritPoints.lean ====
section
/-! DEFINITION. The actions of `force_trx_off` (43_trx_sequencer.md R260) and of `irq_src_modify` (46_context_ops.md
R361): one write inside a critical section. -/

namespace Sys2Proof.Machine

/-- The write a critical section protects. -/
def guardedAction (c : Cfg) (g : Guarded) : Action :=
  match g with
  | .trxOff => fastAct c.FC.TXRXOFF
  | .irqSrc and or => modify32Act c.REG.IRQ_EN_LO 0 and or

/-- The action of a point. -/
def critAction (c : Cfg) (p : CritPt) (g : Guarded) : Action :=
  match p with
  | .mask => .maskOff
  | .run _ => guardedAction c g
  | .unmask tok _ => .maskOn tok

/-- R263: the result of the protected write, kept until the mask is restored. -/
def critResult (r : ActResult) : Result :=
  if r = .failed then .err .busError else .ok .unit

/-- The token `IrqSaveDisable` returned. -/
def ActResult.tok : ActResult → Bool
  | .token t => t
  | .ok | .data _ | .failed => false

/-- What follows an action: the mask is restored whether the write succeeded or failed (R263). -/
def critResume (p : CritPt) (g : Guarded) (r : ActResult) : Next :=
  match p with
  | .mask => .goto (.crit (.run r.tok) g)
  | .run tok => .goto (.crit (.unmask tok (critResult r)) g)
  | .unmask _ res => .done res

/-- R262: the read of the coarse device-state field. -/
def stateReadAction (c : Cfg) : Action :=
  readAct c c.REG.SYS_STATE c.STATE_BYTE_OFF 1

/-- R260: a no-op in the idle class, else the critical section. -/
def stateReadResume (c : Cfg) (r : ActResult) : Next :=
  orFail r (if isIdleClass c (byteAt r.bytes 0) then doneOk else .goto (.crit .mask .trxOff))

end Sys2Proof.Machine
end

