-- ==== Sys2Proof/Machine/DblPoints.lean ====
section
/-! DEFINITION. The actions of the double-buffer operations (44_dblbuf.md R280, R284, R286). -/

namespace Sys2Proof.Machine

/-- The action of a point. -/
def dblAction (c : Cfg) (p : DblPt) : Action :=
  match p with
  | .enModify auto => modify32Act c.REG.SYS_CFG 0 (enableMasks c auto).1 (enableMasks c auto).2
  | .enIndAddr => writeAct c.REG.IND_ADDR 0 (le32 (c.BUF1_FINFO_TARGET >>> 16))
  | .enIndOffset => writeAct c.REG.IND_OFFSET 0 (le32 (c.BUF1_FINFO_TARGET &&& 0x0000FFFF#32))
  | .enDiag => modify8Act c.REG.DIAG_CFG c.DIAG_BYTE_OFF (~~~c.M.MINDIAG) 0
  | .disModify => modify32Act c.REG.SYS_CFG 0 0xFFFFFFFF#32 c.M.DIS_DRXB
  | .toggle => fastAct c.FC.DB_TOGGLE
  | .enSet | .disSet | .flip => .silent

/-- `ctx.dbl <- d`. -/
def setDbl (d : Dbl) (s : State) : State :=
  { s with ctx := { s.ctx with dbl := d } }

/-- R286: `ctx.dbl <- (ctx.dbl = Buffer0 ? Buffer1 : Buffer0)`. -/
def flipDbl (s : State) : State :=
  setDbl s.ctx.dbl.other s

/-- What follows an action. -/
def dblResume (p : DblPt) (r : ActResult) (s : State) : State × Next :=
  match p with
  | .enModify _ => (s, orFail r (.goto (.dbl .enSet)))
  | .enSet => (setDbl .buffer0 s, .goto (.dbl .enIndAddr))
  | .enIndAddr => (s, orFail r (.goto (.dbl .enIndOffset)))
  | .enIndOffset => (s, orFail r (.goto (.dbl .enDiag)))
  | .enDiag => (s, orFail r doneOk)
  | .disModify => (s, orFail r (.goto (.dbl .disSet)))
  | .disSet => (setDbl .off s, doneOk)
  | .toggle => (s, orFail r (.goto (.dbl .flip)))
  | .flip => (flipDbl s, doneOk)

end Sys2Proof.Machine
end

