-- ==== Sys2Proof/Machine/PassPoints.lean ====
section
/-! DEFINITION. The actions of a classifier pass and what follows each (45_event_classifier.md R300 to R331). A group is
entered by its `enterGroup` function, which evaluates the gate on the snapshot and the live context (R300: "Context
fields ... are read where the pseudocode names them"). The tests, and the writes of `rec`, are made with the action
before them (log 15). A point whose callback is absent is a silent step (log 19). -/

namespace Sys2Proof.Machine

/-- Go on at a point of the pass. -/
def passGoto (p : PassPt) (v : Snap) : Next :=
  .goto (.pass p v)

/-- The record is changed and the pass goes on. -/
def setEvt (r : EventRec) (s : State) : State :=
  { s with evt := r }

/-! ## The action of a point -/

/-- `writeHI(Cfg.REG.STATUS_HI, 0, m)` (R300). -/
def clearHi (c : Cfg) (m : Word) : Action :=
  writeAct c.REG.STATUS_HI 0 (hiBytes c m)

/-- `write32(Cfg.REG.STATUS_LO, 0, m)` (R323). -/
def clearLo (c : Cfg) (m : Word) : Action :=
  writeAct c.REG.STATUS_LO 0 (le32 m)

/-- The action of a point of the pass. -/
def passAction (c : Cfg) (x : Ctx) (p : PassPt) (v : Snap) : Action :=
  match p with
  | .capFstat => readAct c c.REG.FSTAT 0 1
  | .capStatus => readAct c c.REG.STATUS_LO 0 4
  | .capSub => readAct c c.REG.RDB_STATUS 0 1
  | .g2Hi => readAct c c.REG.STATUS_HI 0 (hiLen c)
  | .g2aLo => clearLo c c.M.SPICRCE
  | .g2aHi => clearHi c c.M.HI_SPI_ERR
  | .g2aCb | .g2bCb => .callback .onSpiError
  | .g2bHi => clearHi c c.M.HI_CMD_ERR
  | .g3Pll => writeAct c.REG.PLL_COMMON 0 (le16 c.PLL_COMMON_DEFAULT)
  | .g3Cb => .callback .onTxDone
  | .g3Clr => clearLo c c.M.ALL_TX
  | .g4Cb => .callback .onSpiReady
  | .g4Clr => clearLo c c.M.SYS_EVT_CLR
  | .g5Benign | .g5Finfo => readAct c (finfoAddr c x) 0 2
  | .g5Clr => clearLo c v.clr
  | .g5Sub => writeAct c.REG.RDB_STATUS 0 [subClear c x.dbl]
  | .g5Err | .g6Cb => .callback .onRxError
  | .g5Ok => .callback .onRxOk
  | .g5Toggle | .g6Toggle | .g7Toggle => fastAct c.FC.DB_TOGGLE
  | .g5Flip | .g6Flip | .g7Flip => .silent
  | .g6Clr => clearLo c (c.M.RX_ERR ||| c.M.CIADONE ||| c.M.RXFR)
  | .g7Clr => clearLo c (c.M.RX_TO ||| c.M.CIADONE)
  | .g7Cb => .callback .onRxTimeout
  | .g8Read => readAct c c.REG.DSS_STAT 0 1
  | .g8Clr => writeAct c.REG.DSS_STAT 0 [v.dss &&& c.M.DSS_AVAIL]
  | .g8Cb => .callback .onDualSpiEvent

/-! ## Groups, from the last to the first -/

/-- R331: group 8 exists when `Cfg.HAS_DUAL_SPI`; else the pass ends. -/
def enterGroup8 (v : Snap) (s : State) : State × Next :=
  (s, if s.cfg.HAS_DUAL_SPI then passGoto .g8Read v else doneOk)

/-- R329: group 7, RX timeout. -/
def enterGroup7 (v : Snap) (s : State) : State × Next :=
  if anySet v.fstat s.cfg.M.F_RXTO then (s, passGoto .g7Clr v) else enterGroup8 v s

/-- R328: group 6, RX error. -/
def enterGroup6 (v : Snap) (s : State) : State × Next :=
  if rxErrQualifies s.cfg v then (s, passGoto .g6Clr v) else enterGroup7 v s

/-- R326: the end of group 5. -/
def leaveGroup5 (v : Snap) (s : State) : State × Next :=
  enterGroup6 { v with absorbed := v.clr &&& s.cfg.M.RXFCE } s

/-- R324, R325: the dispatch of group 5. -/
def dispatchRx (v : Snap) (s : State) : State × Next :=
  if s.evt.isPhrErr then (setEvt s.evt.markPhrErr s, passGoto .g5Err v) else (s, passGoto .g5Ok v)

/-- R313, R316 to R319: the gate of group 5, the flags, and the no-data or length branch. -/
def enterGroup5 (v : Snap) (s : State) : State × Next :=
  if rxQualifies s.cfg v then
    let s1 := setEvt { s.evt with flags := s.evt.flags.accumulate s.cfg v.st } s
    if isNoData s.cfg s.ctx v then
      (setEvt s1.evt.markNoData s1, passGoto .g5Clr { v with clr := s.cfg.M.ALL_RX_GOOD ||| (v.st &&& s.cfg.M.RXFCE) })
    else
      (s1, passGoto (if lengthReads s.cfg s.ctx v then .g5Finfo else .g5Clr) { v with clr := s.cfg.M.ALL_RX_GOOD })
  else enterGroup6 v s

/-- R314: the benign test. -/
def enterBenign (v : Snap) (s : State) : State × Next :=
  if benignReads s.cfg s.ctx v then (s, passGoto .g5Benign v) else enterGroup5 { v with benign := false } s

/-- R311: group 4, system/SPI ready. -/
def enterGroup4 (v : Snap) (s : State) : State × Next :=
  if anySet v.fstat s.cfg.M.F_SYSEVT then (s, passGoto .g4Cb v) else enterBenign v s

/-- R310: group 3, TX done. -/
def enterGroup3 (v : Snap) (s : State) : State × Next :=
  if anySet v.fstat s.cfg.M.F_TXOK then (s, passGoto .g3Pll v) else enterGroup4 v s

/-- R308: sub-cause 2b. -/
def enterGroup2b (v : Snap) (s : State) : State × Next :=
  if cmdErrQualifies s.cfg v then (s, passGoto .g2bHi v) else enterGroup3 v s

/-- R307: sub-cause 2a. -/
def enterGroup2a (v : Snap) (s : State) : State × Next :=
  if spiErrQualifies s.cfg v then (s, passGoto .g2aLo v) else enterGroup2b v s

/-- R306: group 2, system panic. -/
def enterGroup2 (v : Snap) (s : State) : State × Next :=
  if anySet v.fstat s.cfg.M.F_PANIC then (s, passGoto .g2Hi v) else enterGroup3 v s

/-- R304: the snapshot is complete: `rec.status <- st`, `absorbed <- 0`. -/
def endCapture (v : Snap) (s : State) : State × Next :=
  enterGroup2 { v with absorbed := 0 } (setEvt { s.evt with status := v.st } s)

/-- R303: the sub-status byte is captured and merged. -/
def captureSub (v : Snap) (raw : Byte) (s : State) : State × Next :=
  let sdb := subHalf s.ctx.dbl raw
  endCapture { v with sdb, st := mergeSub s.cfg sdb v.st } s

/-- R327 to R329: a group's free, when double-buffering is active at that point, else what comes after it. -/
def freeOr (toggle : PassPt) (v : Snap) (s : State) (after : State × Next) : State × Next :=
  if s.ctx.dbl.active then (s, passGoto toggle v) else after

/-! ## What follows an action -/

/-- What follows an action of the pass that succeeded with the bytes `d`. -/
def passFollow (p : PassPt) (v : Snap) (d : List Byte) (s : State) : State × Next :=
  match p with
  | .capFstat => (s, passGoto .capStatus { v with fstat := byteAt d 0 })
  | .capStatus =>
    let v1 := { v with st := unLE32 d }
    if s.ctx.dbl.active then (s, passGoto .capSub v1) else endCapture v1 s
  | .capSub => captureSub v (byteAt d 0) s
  | .g2Hi =>
    let hi := hiOf s.cfg d
    enterGroup2a { v with hi } (setEvt { s.evt with statusHi := hi } s)
  | .g2aLo => (s, passGoto .g2aHi v)
  | .g2aHi => (setEvt { s.evt with cause := .spiErr } s, passGoto .g2aCb v)
  | .g2aCb => enterGroup2b v s
  | .g2bHi => (setEvt { s.evt with cause := .cmdErr } s, passGoto .g2bCb v)
  | .g2bCb => enterGroup3 v s
  | .g3Pll => (s, passGoto .g3Cb v)
  | .g3Cb => (s, passGoto .g3Clr v)
  | .g3Clr => enterGroup4 v s
  | .g4Cb => (s, passGoto .g4Clr v)
  | .g4Clr => enterBenign v s
  | .g5Benign =>
    let fi := unLE16 d
    enterGroup5 { v with fi, benign := (fi &&& lenmask s.cfg s.ctx) == 0 } s
  | .g5Finfo =>
    let fi := unLE16 d
    (setEvt (s.evt.withFrameInfo s.cfg s.ctx fi) s, passGoto .g5Clr { v with fi })
  | .g5Clr => if s.ctx.dbl.active then (s, passGoto .g5Sub v) else dispatchRx v s
  | .g5Sub => dispatchRx v s
  | .g5Err | .g5Ok => freeOr .g5Toggle v s (leaveGroup5 v s)
  | .g5Toggle => (s, passGoto .g5Flip v)
  | .g5Flip => leaveGroup5 v (flipDbl s)
  | .g6Clr => freeOr .g6Toggle v s (s, passGoto .g6Cb v)
  | .g6Toggle => (s, passGoto .g6Flip v)
  | .g6Flip => (flipDbl s, passGoto .g6Cb v)
  | .g6Cb => enterGroup7 v s
  | .g7Clr => freeOr .g7Toggle v s (s, passGoto .g7Cb v)
  | .g7Toggle => (s, passGoto .g7Flip v)
  | .g7Flip => (flipDbl s, passGoto .g7Cb v)
  | .g7Cb => enterGroup8 v s
  | .g8Read =>
    let dss := byteAt d 0
    (setEvt { s.evt with dss } s, if anySet dss s.cfg.M.DSS_AVAIL then passGoto .g8Clr { v with dss } else doneOk)
  | .g8Clr => (s, passGoto .g8Cb v)
  | .g8Cb => (s, doneOk)

/-- What follows an action of the pass; a `BusError` ends the pass (R335). -/
def passResume (p : PassPt) (v : Snap) (r : ActResult) (s : State) : State × Next :=
  if r = .failed then (s, busFail) else passFollow p v r.bytes s

end Sys2Proof.Machine
end

