-- ==== Sys2Proof/Machine/TrxPoints.lean ====
section
/-! DEFINITION. The actions of `start_tx` and `start_rx` in their order (43_trx_sequencer.md R243, R244, R252). The tests
of the pseudocode are made with the action before them (log 15). -/

namespace Sys2Proof.Machine

/-- The action of a point. -/
def trxAction (c : Cfg) (p : TrxPt) (st : Start) : Action :=
  match p with
  | .pll => writeAct c.REG.PLL_COMMON 0 (le16 c.PLL_COMMON_DEFAULT)
  | .antRead => readAct c (antReg c st.flv) 0 2
  | .dxRead _ => readAct c c.REG.DX_TIME 0 4
  | .dxWrite v => writeAct c.REG.DX_TIME 0 (le32 v)
  | .command => fastAct (st.code c.FC)
  | .lateRead => readAct c c.REG.STATUS_LO 3 1
  | .lateOff => fastAct c.FC.TXRXOFF
  | .lateRx => fastAct c.FC.RX

/-- R245, R255: the antenna correction of a timestamped flavour, then the start command. -/
def trxCorrect (st : Start) : TrxPt :=
  if st.flv.timestamped then .antRead else .command

/-- R242, R251: the first action of a valid start. -/
def trxFirst (st : Start) : TrxPt :=
  if st.tx then trxCorrect st else .pll

/-- R255: after the off command of a late receive, the fail-open `RX` unless `IdleOnLate`; a late transmit ends (R247). -/
def trxAfterOff (st : Start) : Next :=
  if st.tx || st.opt then .done (.err .late) else .goto (.trx .lateRx st)

/-- R247, R255: the start was late. -/
def trxLate (c : Cfg) (st : Start) : Next :=
  if st.tx || c.RX_LATE_ISSUES_OFF then .goto (.trx .lateOff st) else trxAfterOff st

/-- What follows an action that succeeded with the bytes `d`. -/
def trxFollow (c : Cfg) (p : TrxPt) (st : Start) (d : List Byte) : Next :=
  match p with
  | .pll => .goto (.trx (trxCorrect st) st)
  | .antRead => .goto (.trx (.dxRead (unLE16 d)) st)
  | .dxRead a => .goto (.trx (.dxWrite (correctedDelay c (unLE32 d) a)) st)
  | .dxWrite _ => .goto (.trx .command st)
  | .command => if st.flv.isDelayed then .goto (.trx .lateRead st) else doneOk
  | .lateRead => if isLate c (byteAt d 0) then trxLate c st else doneOk
  | .lateOff => trxAfterOff st
  | .lateRx => .done (.err .late)

/-- What follows an action. -/
def trxResume (c : Cfg) (p : TrxPt) (st : Start) (r : ActResult) : Next :=
  orFail r (trxFollow c p st r.bytes)

end Sys2Proof.Machine
end

