-- ==== Sys2Proof/Machine/Sequence.lean ====
section
/-! DEFINITION. One action of an operation in progress (10_state.md R36): the action of its point, a checked read's second
transaction and alarm (40_codec.md R148 to R151), and the transition to the next point. -/

namespace Sys2Proof.Machine

/-- The action of a point. -/
def actionOf (p : Point) (s : State) : Action :=
  match p with
  | .read hdr checked n _ => .read hdr checked n
  | .write hdr body => .write hdr body
  | .stateRead => stateReadAction s.cfg
  | .trx p st => trxAction s.cfg p st
  | .crit p g => critAction s.cfg p g
  | .dbl p => dblAction s.cfg p
  | .pass p v => passAction s.cfg s.ctx p v

/-- What follows the action of a point. -/
def resumeAt (p : Point) (r : ActResult) (s : State) : State × Next :=
  match p with
  | .read _ _ _ ret => (s, orFail r (.done (.ok (ret.value r.bytes))))
  | .write _ _ => (s, orFail r doneOk)
  | .stateRead => (s, stateReadResume s.cfg r)
  | .trx p st => (s, trxResume s.cfg p st r)
  | .crit p g => (s, critResume p g r)
  | .dbl p => dblResume p r s
  | .pass p v => passResume p v r s

/-- The action of `t` is over with the result `r`: the task goes on, or ends with its result. -/
def settle (t : Task) (r : ActResult) (s : State) : State :=
  let y := resumeAt t.pt r s
  match y.2 with
  | .goto p => park { t with pt := p, phase := .ready } y.1
  | .done res => finish t.owner res y.1

/-- R148: the CRC check applies: the read is not exempt and the mode is `WriteRead`. -/
def checksRead (checked : Bool) (s : State) : Bool :=
  checked && s.ctx.crcMode == .writeRead

/-- R148: the data of a read arrive; a checked one keeps them with the CRC computed over header and data, and its echo read is next. -/
def readAction (t : Task) (hdr : List Byte) (checked : Bool) (n : Nat) (s : State) : State :=
  let y := busRead hdr n s
  match y.1 with
  | none => settle t .failed y.2
  | some d =>
    if checksRead checked s then park { t with phase := .echo (crc8 s.cfg (hdr ++ d)) d } y.2
    else settle t (.data d) y.2

/-- The header of the echo read, `transact(Read, Cfg.REG.CRC_ECHO, 0, 1)` (R148). -/
def echoHdr (c : Cfg) : List Byte :=
  accessHdr .read c.REG.CRC_ECHO 0

/-- R148, R150, R151: the echo read; a failure drops the data, a difference raises the alarm if its callback is present. -/
def echoAction (t : Task) (localCrc : Byte) (d : List Byte) (s : State) : State :=
  let y := busRead (echoHdr s.cfg) 1 s
  match y.1 with
  | none => settle t .failed y.2
  | some e =>
    if localCrc != byteAt e 0 && s.ctx.has .onSpiReadCrcError then park { t with phase := .alarm d } y.2
    else settle t (.data d) y.2

/-- A callback with the data the task goes on with; an absent one is skipped (45_event_classifier.md R334). -/
def callbackAction (t : Task) (f : CallbackId) (d : List Byte) (s : State) : State :=
  if s.ctx.has f then callHost f { t with phase := .held d } s else settle t (.data d) s

/-- The action of a point that is ready. -/
def perform (t : Task) (a : Action) (s : State) : State :=
  match a with
  | .read hdr checked n => readAction t hdr checked n s
  | .write hdr body =>
    let y := busWrite hdr body s
    settle t (if y.1 then .ok else .failed) y.2
  | .callback f => callbackAction t f [] s
  | .silent => settle t .ok s
  | .maskOff => settle t (.token s.env.platMask) (maskOff s)
  | .maskOn tok => settle t .ok (maskOn tok s)

/-- One action of the task `t`, whose continuation below is `s.stack`. -/
def runTask (t : Task) (s : State) : State :=
  match t.phase with
  | .ready => perform t (actionOf t.pt s) s
  | .echo localCrc d => echoAction t localCrc d s
  | .alarm d => callbackAction t .onSpiReadCrcError d s
  | .held d => settle t (.data d) s

/-- An operation is accepted and takes its first action. -/
def start (p : Point) (s : State) : Host.Outcome State Fault Refusal :=
  .next (runTask { owner := .cmd, pt := p, phase := .ready } s)

/-- A pass starts: the entry sequence (60_exceptions.md R383) and the first capture read. -/
def startPass (o : Owner) (s : State) : State :=
  runTask { owner := o, pt := .pass .capFstat {}, phase := .ready } (enterPass s)

/-- The data a task held while its callback ran. -/
def Phase.heldData : Phase → List Byte
  | .held d => d
  | .ready | .echo _ _ | .alarm _ => []

/-- R390: the handler on top returns, and the task below goes on after its callback. With no handler on top there is nothing to return from (log 32). -/
def returnFromHandler (s : State) : Host.Outcome State Fault Refusal :=
  match s.stack with
  | .handler _ :: .task t :: below => .next (settle t (.data t.phase.heldData) { s with stack := below })
  | _ => .refused .strayReturn

end Sys2Proof.Machine
end

