-- ==== Sys2Proof/Machine/Codec.lean ====
section
/-! DEFINITION. The bus frame rows (30_encoding.md R92 to R97, R104), run as single emissions of the codec (log 6), and
the operation TRANSACT (40_codec.md R140 to R153). -/

namespace Sys2Proof.Machine

/-- A codec request that has passed admission (R141) performs its one transaction; a refused one reaches nothing (R142, R143). -/
def codec (admitted : Bool) (p : Point) (s : State) : Host.Outcome State Fault Refusal :=
  request s fun s => if admitted then start p s else protocolError s

/-! ## Bus frames -/

/-- `BUS.RD_SHORT` (R95): one read of `len` bytes with the short header. -/
def execBusRdShort (file : File) (len : Half) (s : State) : Host.Outcome State Fault Refusal :=
  codec (lenWf s.cfg len.toNat)
    (.read (hdrShort false file) (checkedAddr s.cfg (frameAddr file 0)) len.toNat .bytes) s

/-- `BUS.WR_SHORT` (R95): one write with the short header. -/
def execBusWrShort (file : File) (body : List Byte) (s : State) : Host.Outcome State Fault Refusal :=
  codec (lenWf s.cfg body.length) (.write (hdrShort true file) body) s

/-- `BUS.RD_EXT` (R94): one read of `len` bytes with the extended header. -/
def execBusRdExt (file : File) (sub : Sub) (len : Half) (s : State) : Host.Outcome State Fault Refusal :=
  codec (lenWf s.cfg len.toNat)
    (.read (hdrExt false file sub 0) (checkedAddr s.cfg (frameAddr file sub)) len.toNat .bytes) s

/-- `BUS.WR_EXT` (R94): one write with the extended header. -/
def execBusWrExt (file : File) (sub : Sub) (body : List Byte) (s : State) : Host.Outcome State Fault Refusal :=
  codec (lenWf s.cfg body.length) (.write (hdrExt true file sub 0) body) s

/-- `BUS.MOD8` (R96, R97): both masks in one transaction. -/
def execBusMod8 (file : File) (sub : Sub) (and or : Byte) (s : State) : Host.Outcome State Fault Refusal :=
  codec true (.write (hdrExt true file sub 1) [and, or]) s

/-- `BUS.MOD16` (R96, R97). -/
def execBusMod16 (file : File) (sub : Sub) (and or : Half) (s : State) : Host.Outcome State Fault Refusal :=
  codec true (.write (hdrExt true file sub 2) (le16 and ++ le16 or)) s

/-- `BUS.MOD32` (R96, R97). -/
def execBusMod32 (file : File) (sub : Sub) (and or : Word) (s : State) : Host.Outcome State Fault Refusal :=
  codec true (.write (hdrExt true file sub 3) (le32 and ++ le32 or)) s

/-- `BUS.FAST` (R93): a fast-command frame; any 5-bit code is sent (42_fastcmd.md R201). -/
def execBusFast (code : File) (s : State) : Host.Outcome State Fault Refusal :=
  codec true (.write (hdrFast code) []) s

/-! ## Patterns a decoder calls invalid (R104; 93_implementation_defined.md U3: refuse) -/

/-- `BUS.INVALID_FAST_READ`, R104 (a). -/
def execBusInvalidFastRead (_code : File) (_s : State) : Host.Outcome State Fault Refusal :=
  .refused (.invalidFrame .fastCommandWithReadBit)

/-- `BUS.INVALID_READ_M1`, R104 (b). -/
def execBusInvalidReadM1 (_file : File) (_sub : Sub) (_s : State) : Host.Outcome State Fault Refusal :=
  .refused (.invalidFrame .readWithModifyWidth)

/-- `BUS.INVALID_READ_M2`, R104 (b). -/
def execBusInvalidReadM2 (_file : File) (_sub : Sub) (_s : State) : Host.Outcome State Fault Refusal :=
  .refused (.invalidFrame .readWithModifyWidth)

/-- `BUS.INVALID_READ_M3`, R104 (b). -/
def execBusInvalidReadM3 (_file : File) (_sub : Sub) (_s : State) : Host.Outcome State Fault Refusal :=
  .refused (.invalidFrame .readWithModifyWidth)

/-! ## TRANSACT -/

/-- The transaction of an admitted request of a recognized kind (R144 to R148). -/
def transactPoint (c : Cfg) (k : Kind) (addr : Word) (offset len : Half) (buf : List Byte) : Point :=
  match k with
  | .read => .read (accessHdr .read addr offset) (checkedAddr c addr) len.toNat .bytes
  | .fast => .write (hdrFast (addr.extractLsb' 0 5)) []
  | .write | .mod8 | .mod16 | .mod32 => .write (accessHdr k addr offset) buf

/-- `TRANSACT` (R140): kind, admission, one transaction. -/
def execTransact (addr : Word) (offset len mode : Half) (fast : Bool) (buf : List Byte) (s : State) :
    Host.Outcome State Fault Refusal :=
  request s fun s =>
    match kindOf mode fast with
    | none => protocolError s
    | some k => if admitted s.cfg k addr offset len buf then start (transactPoint s.cfg k addr offset len buf) s
      else protocolError s

end Sys2Proof.Machine
end

