-- ==== Sys2Proof/Machine/Accessors.lean ====
section
/-! DEFINITION. The typed accessors (41_accessors.md R170 to R178): each is exactly one `transact`, whose kind and length
are admitted by construction (R181). -/

namespace Sys2Proof.Machine

/-- One checked read, its bytes turned into a value. -/
def readAccessor (addr : Word) (offset : Half) (n : Nat) (ret : RetKind) (s : State) : Host.Outcome State Fault Refusal :=
  request s (start (.read (accessHdr .read addr offset) (checkedAddr s.cfg addr) n ret))

/-- One write-class transaction. -/
def writeAccessor (k : Kind) (addr : Word) (offset : Half) (bytes : List Byte) (s : State) :
    Host.Outcome State Fault Refusal :=
  request s (start (.write (accessHdr k addr offset) bytes))

/-- `READ8` (R170). -/
def execRead8 (addr : Word) (offset : Half) (s : State) : Host.Outcome State Fault Refusal :=
  readAccessor addr offset 1 .bits8 s

/-- `READ16` (R171). -/
def execRead16 (addr : Word) (offset : Half) (s : State) : Host.Outcome State Fault Refusal :=
  readAccessor addr offset 2 .bits16 s

/-- `READ32` (R172). -/
def execRead32 (addr : Word) (offset : Half) (s : State) : Host.Outcome State Fault Refusal :=
  readAccessor addr offset 4 .bits32 s

/-- `WRITE8` (R173). -/
def execWrite8 (addr : Word) (offset : Half) (v : Byte) (s : State) : Host.Outcome State Fault Refusal :=
  writeAccessor .write addr offset [v] s

/-- `WRITE16` (R174). -/
def execWrite16 (addr : Word) (offset : Half) (v : Half) (s : State) : Host.Outcome State Fault Refusal :=
  writeAccessor .write addr offset (le16 v) s

/-- `WRITE32` (R175). -/
def execWrite32 (addr : Word) (offset : Half) (v : Word) (s : State) : Host.Outcome State Fault Refusal :=
  writeAccessor .write addr offset (le32 v) s

/-- `MODIFY8` (R176, R180: one transaction carrying both masks). -/
def execModify8 (addr : Word) (offset : Half) (and or : Byte) (s : State) : Host.Outcome State Fault Refusal :=
  writeAccessor .mod8 addr offset [and, or] s

/-- `MODIFY16` (R177, R180: one transaction carrying both masks). -/
def execModify16 (addr : Word) (offset : Half) (and or : Half) (s : State) : Host.Outcome State Fault Refusal :=
  writeAccessor .mod16 addr offset (le16 and ++ le16 or) s

/-- `MODIFY32` (R178, R180: one transaction carrying both masks). -/
def execModify32 (addr : Word) (offset : Half) (and or : Word) (s : State) : Host.Outcome State Fault Refusal :=
  writeAccessor .mod32 addr offset (le32 and ++ le32 or) s

end Sys2Proof.Machine
end

