-- ==== Sys2Proof/Machine/Classifier.lean ====
section
/-! DEFINITION. The classifier pass by request (45_event_classifier.md R300, 60_exceptions.md R381 (a), R389). -/

namespace Sys2Proof.Machine

/-- `ISR_PASS` (R300): a pass whose result is answered. Refused while a pass runs (R389; also after an `init` inside it has
cleared `seq.in_pass`: the model's choice, log 38) and from every callback (R390, 70_reset_and_hazards.md R435; that the
answer is `Err(InvalidArgument)` there too: log 31). -/
def execIsrPass (s : State) : Host.Outcome State Fault Refusal :=
  request s fun s =>
    if s.seq.inPass || hasPass s.stack || inCallback s.stack then reply (.err .invalidArgument) s
    else .next (startPass .passCmd s)

end Sys2Proof.Machine
end

