-- ==== Sys2Proof/Machine/Context.lean ====
section
/-! DEFINITION. The context operations (46_context_ops.md R350 to R362) and the reserved op codes (30_encoding.md R115). -/

namespace Sys2Proof.Machine

/-- `INIT` (R350): every field to its reset value, then `ctx.live <- true`; accepted whatever `ctx.live` is, but not by a
halted block (70_reset_and_hazards.md R437). -/
def execInit (s : State) : Host.Outcome State Fault Refusal :=
  if s.seq.halted then .fault .halted
  else
    reply (.ok .unit)
      { s with ctx := { Ctx.powerOn with live := true }, evt := EventRec.zero, seq := Sequencer.powerOn }

/-- `DEINIT` (R351): back to the power-on state (70_reset_and_hazards.md R417; log 16). -/
def execDeinit (s : State) : Host.Outcome State Fault Refusal :=
  request s fun s => reply (.ok .unit) { s with ctx := Ctx.powerOn, evt := EventRec.zero, seq := Sequencer.powerOn }

/-- A setter (R352): it writes `ctx` and does nothing else. -/
def setCtx (f : Ctx → Ctx) (s : State) : Host.Outcome State Fault Refusal :=
  request s fun s => reply (.ok .unit) { s with ctx := f s.ctx }

/-- `SET_CHANNEL` (R353). -/
def execSetChannel (ch : Byte) (s : State) : Host.Outcome State Fault Refusal :=
  setCtx (fun x => { x with channel := ch }) s

/-- `SET_STS` (R354). -/
def execSetSts (mode len : Byte) (s : State) : Host.Outcome State Fault Refusal :=
  setCtx (fun x => { x with stsMode := mode, stsLen := len }) s

/-- `SET_CRC_MODE` (R355); 3 answers `Err(InvalidArgument)`. -/
def execSetCrcMode (m : BitVec 2) (s : State) : Host.Outcome State Fault Refusal :=
  match crcModeOf m with
  | some mode => setCtx (fun x => { x with crcMode := mode }) s
  | none => request s (reply (.err .invalidArgument))

/-- `SET_FCE_DIS` (R356). -/
def execSetFceDis (b : Bool) (s : State) : Host.Outcome State Fault Refusal :=
  setCtx (fun x => { x with fceDis := b }) s

/-- `SET_ZERO_LEN_OK` (R357). -/
def execSetZeroLenOk (b : Bool) (s : State) : Host.Outcome State Fault Refusal :=
  setCtx (fun x => { x with zeroLenOk := b }) s

/-- `SET_LONG_FRAMES` (R358). -/
def execSetLongFrames (b : Bool) (s : State) : Host.Outcome State Fault Refusal :=
  setCtx (fun x => { x with longFrames := b }) s

/-- `SET_CALLBACK` (R359). -/
def execSetCallback (id : BitVec 3) (present : Bool) (s : State) : Host.Outcome State Fault Refusal :=
  setCtx (fun x => { x with cb := withCallback x.cb id present }) s

/-- `IRQ_SRC_MODIFY` (R361). -/
def execIrqSrcModify (and or : Word) (s : State) : Host.Outcome State Fault Refusal :=
  request s (start (.crit .mask (.irqSrc and or)))

/-- `CMD.RESERVED`: every other op code answers `Err(InvalidArgument)` (30_encoding.md R115), whatever `ctx.live` is (R378). -/
def execCmdReserved (_op : Byte) (s : State) : Host.Outcome State Fault Refusal :=
  if s.seq.halted then .fault .halted else reply (.err .invalidArgument) s

end Sys2Proof.Machine
end

