-- ==== Sys2Proof/Machine/DoubleBuffer.lean ====
section
/-! DEFINITION. The double-buffer toggle controller (44_dblbuf.md R280 to R290). -/

namespace Sys2Proof.Machine

/-- `DBL_ENABLE` (R280). -/
def execDblEnable (autoReenable : Bool) (s : State) : Host.Outcome State Fault Refusal :=
  request s (start (.dbl (.enModify autoReenable)))

/-- `DBL_DISABLE` (R284). -/
def execDblDisable (s : State) : Host.Outcome State Fault Refusal :=
  request s (start (.dbl .disModify))

/-- `SIGNAL_BUFFER_FREE` (R286); with `ctx.dbl = Off` it emits nothing (R287). -/
def execSignalBufferFree (s : State) : Host.Outcome State Fault Refusal :=
  request s fun s => if s.ctx.dbl.active then start (.dbl .toggle) s else reply (.err .invalidArgument) s

end Sys2Proof.Machine
end

