-- ==== Sys2Proof/Machine/FastCommands.lean ====
section
/-! DEFINITION. The fast-command dispatcher (42_fastcmd.md R200, R201) and its catalogue (R203 to R229): each command is
one fast write, "No response payload", and changes no field of `ctx` (R230). What the chip does on it is in Chip.lean. -/

namespace Sys2Proof.Machine

/-- `FastCmd(code)` (R200). -/
def fastCmd (code : File) (s : State) : Host.Outcome State Fault Refusal :=
  request s (start (.write (hdrFast code) []))

/-- `FASTCMD` (R200): operand `addr[4:0]`; `Err(ProtocolError)` if `addr >= 32`. -/
def execFastcmd (addr : Word) (s : State) : Host.Outcome State Fault Refusal :=
  request s fun s =>
    if addr < 32 then start (.write (hdrFast (addr.extractLsb' 0 5)) []) s else protocolError s

/-! ## The catalogue -/

/-- `FC.TXRXOFF` (R203). -/
def execFcTxrxoff (s : State) : Host.Outcome State Fault Refusal :=
  fastCmd s.cfg.FC.TXRXOFF s

/-- `FC.TX` (R204). -/
def execFcTx (s : State) : Host.Outcome State Fault Refusal :=
  fastCmd s.cfg.FC.TX s

/-- `FC.RX` (R205). -/
def execFcRx (s : State) : Host.Outcome State Fault Refusal :=
  fastCmd s.cfg.FC.RX s

/-- `FC.DTX` (R206). -/
def execFcDtx (s : State) : Host.Outcome State Fault Refusal :=
  fastCmd s.cfg.FC.DTX s

/-- `FC.DRX` (R207). -/
def execFcDrx (s : State) : Host.Outcome State Fault Refusal :=
  fastCmd s.cfg.FC.DRX s

/-- `FC.DTX_TS` (R208). -/
def execFcDtxTs (s : State) : Host.Outcome State Fault Refusal :=
  fastCmd s.cfg.FC.DTX_TS s

/-- `FC.DRX_TS` (R209). -/
def execFcDrxTs (s : State) : Host.Outcome State Fault Refusal :=
  fastCmd s.cfg.FC.DRX_TS s

/-- `FC.DTX_RS` (R210). -/
def execFcDtxRs (s : State) : Host.Outcome State Fault Refusal :=
  fastCmd s.cfg.FC.DTX_RS s

/-- `FC.DRX_RS` (R211). -/
def execFcDrxRs (s : State) : Host.Outcome State Fault Refusal :=
  fastCmd s.cfg.FC.DRX_RS s

/-- `FC.DTX_REF` (R212). -/
def execFcDtxRef (s : State) : Host.Outcome State Fault Refusal :=
  fastCmd s.cfg.FC.DTX_REF s

/-- `FC.DRX_REF` (R213). -/
def execFcDrxRef (s : State) : Host.Outcome State Fault Refusal :=
  fastCmd s.cfg.FC.DRX_REF s

/-- `FC.CCA_TX` (R214). -/
def execFcCcaTx (s : State) : Host.Outcome State Fault Refusal :=
  fastCmd s.cfg.FC.CCA_TX s

/-- `FC.TX_W4R` (R215). -/
def execFcTxW4r (s : State) : Host.Outcome State Fault Refusal :=
  fastCmd s.cfg.FC.TX_W4R s

/-- `FC.DTX_W4R` (R216). -/
def execFcDtxW4r (s : State) : Host.Outcome State Fault Refusal :=
  fastCmd s.cfg.FC.DTX_W4R s

/-- `FC.DTX_TS_W4R` (R217). -/
def execFcDtxTsW4r (s : State) : Host.Outcome State Fault Refusal :=
  fastCmd s.cfg.FC.DTX_TS_W4R s

/-- `FC.DTX_RS_W4R` (R218). -/
def execFcDtxRsW4r (s : State) : Host.Outcome State Fault Refusal :=
  fastCmd s.cfg.FC.DTX_RS_W4R s

/-- `FC.DTX_REF_W4R` (R219). -/
def execFcDtxRefW4r (s : State) : Host.Outcome State Fault Refusal :=
  fastCmd s.cfg.FC.DTX_REF_W4R s

/-- `FC.CCA_TX_W4R` (R220). -/
def execFcCcaTxW4r (s : State) : Host.Outcome State Fault Refusal :=
  fastCmd s.cfg.FC.CCA_TX_W4R s

/-- `FC.DB_TOGGLE` (R221). -/
def execFcDbToggle (s : State) : Host.Outcome State Fault Refusal :=
  fastCmd s.cfg.FC.DB_TOGGLE s

/-- `FC.SEMA_REQ` (R224). -/
def execFcSemaReq (s : State) : Host.Outcome State Fault Refusal :=
  fastCmd s.cfg.FC.SEMA_REQ s

/-- `FC.SEMA_REL` (R225). -/
def execFcSemaRel (s : State) : Host.Outcome State Fault Refusal :=
  fastCmd s.cfg.FC.SEMA_REL s

/-- `FC.SEMA_FORCE` (R226). -/
def execFcSemaForce (s : State) : Host.Outcome State Fault Refusal :=
  fastCmd s.cfg.FC.SEMA_FORCE s

/-- `FC.SOFT_RESET_SEM` (R227). -/
def execFcSoftResetSem (s : State) : Host.Outcome State Fault Refusal :=
  fastCmd s.cfg.FC.SOFT_RESET_SEM s

/-- `FC.SOFT_RESET_NO_SEM` (R228). -/
def execFcSoftResetNoSem (s : State) : Host.Outcome State Fault Refusal :=
  fastCmd s.cfg.FC.SOFT_RESET_NO_SEM s

/-- `FC.ENTER_SLEEP` (R229). -/
def execFcEnterSleep (s : State) : Host.Outcome State Fault Refusal :=
  fastCmd s.cfg.FC.ENTER_SLEEP s

/-! ## Reserved codes (R201: "any 5-bit code is encoded and sent"; log 21) -/

/-- `FC.RESERVED_12`. -/
def execFcReserved12 (s : State) : Host.Outcome State Fault Refusal :=
  fastCmd 0x12#5 s

/-- `FC.RESERVED_17`. -/
def execFcReserved17 (s : State) : Host.Outcome State Fault Refusal :=
  fastCmd 0x17#5 s

/-- `FC.RESERVED_1B`. -/
def execFcReserved1B (s : State) : Host.Outcome State Fault Refusal :=
  fastCmd 0x1B#5 s

/-- `FC.RESERVED_1C`. -/
def execFcReserved1C (s : State) : Host.Outcome State Fault Refusal :=
  fastCmd 0x1C#5 s

/-- `FC.RESERVED_1D`. -/
def execFcReserved1D (s : State) : Host.Outcome State Fault Refusal :=
  fastCmd 0x1D#5 s

/-- `FC.RESERVED_1E`. -/
def execFcReserved1E (s : State) : Host.Outcome State Fault Refusal :=
  fastCmd 0x1E#5 s

/-- `FC.RESERVED_1F`. -/
def execFcReserved1F (s : State) : Host.Outcome State Fault Refusal :=
  fastCmd 0x1F#5 s

end Sys2Proof.Machine
end

