-- ==== Sys2Proof/Machine/TrxSequencer.lean ====
section
/-! DEFINITION. The TX/RX command sequencer (43_trx_sequencer.md R242 to R264). -/

namespace Sys2Proof.Machine

/-- `START_TX` (R242, R244). -/
def execStartTx (mode : Byte) (s : State) : Host.Outcome State Fault Refusal :=
  request s fun s =>
    match txStart mode with
    | none => reply (.err .invalidArgument) s
    | some st => start (.trx (trxFirst st) st) s

/-- `START_RX` (R251, R252): the validity test comes before the PLL write. -/
def execStartRx (mode : Byte) (s : State) : Host.Outcome State Fault Refusal :=
  request s fun s =>
    match rxStart mode with
    | none => reply (.err .invalidArgument) s
    | some st => start (.trx (trxFirst st) st) s

/-- `FORCE_TRX_OFF` (R260). -/
def execForceTrxOff (s : State) : Host.Outcome State Fault Refusal :=
  request s (start .stateRead)

end Sys2Proof.Machine
end

