-- ==== Sys2Proof/Machine/Dispatch.lean ====
section
/-! DEFINITION. The dispatch: one arm per instruction. -/

namespace Sys2Proof.Machine

/-- The meaning of an instruction. -/
def exec (i : Instr) (s : State) : Host.Outcome State Fault Refusal :=
  match i with
  | .busRdShort file len => Sys2Proof.Machine.execBusRdShort file len s
  | .busWrShort file body => Sys2Proof.Machine.execBusWrShort file body s
  | .busRdExt file sub len => Sys2Proof.Machine.execBusRdExt file sub len s
  | .busWrExt file sub body => Sys2Proof.Machine.execBusWrExt file sub body s
  | .busMod8 file sub and or => Sys2Proof.Machine.execBusMod8 file sub and or s
  | .busMod16 file sub and or => Sys2Proof.Machine.execBusMod16 file sub and or s
  | .busMod32 file sub and or => Sys2Proof.Machine.execBusMod32 file sub and or s
  | .busFast code => Sys2Proof.Machine.execBusFast code s
  | .busInvalidFastRead code => Sys2Proof.Machine.execBusInvalidFastRead code s
  | .busInvalidReadM1 file sub => Sys2Proof.Machine.execBusInvalidReadM1 file sub s
  | .busInvalidReadM2 file sub => Sys2Proof.Machine.execBusInvalidReadM2 file sub s
  | .busInvalidReadM3 file sub => Sys2Proof.Machine.execBusInvalidReadM3 file sub s
  | .fcTxrxoff => Sys2Proof.Machine.execFcTxrxoff s
  | .fcTx => Sys2Proof.Machine.execFcTx s
  | .fcRx => Sys2Proof.Machine.execFcRx s
  | .fcDtx => Sys2Proof.Machine.execFcDtx s
  | .fcDrx => Sys2Proof.Machine.execFcDrx s
  | .fcDtxTs => Sys2Proof.Machine.execFcDtxTs s
  | .fcDrxTs => Sys2Proof.Machine.execFcDrxTs s
  | .fcDtxRs => Sys2Proof.Machine.execFcDtxRs s
  | .fcDrxRs => Sys2Proof.Machine.execFcDrxRs s
  | .fcDtxRef => Sys2Proof.Machine.execFcDtxRef s
  | .fcDrxRef => Sys2Proof.Machine.execFcDrxRef s
  | .fcCcaTx => Sys2Proof.Machine.execFcCcaTx s
  | .fcTxW4r => Sys2Proof.Machine.execFcTxW4r s
  | .fcDtxW4r => Sys2Proof.Machine.execFcDtxW4r s
  | .fcDtxTsW4r => Sys2Proof.Machine.execFcDtxTsW4r s
  | .fcDtxRsW4r => Sys2Proof.Machine.execFcDtxRsW4r s
  | .fcDtxRefW4r => Sys2Proof.Machine.execFcDtxRefW4r s
  | .fcCcaTxW4r => Sys2Proof.Machine.execFcCcaTxW4r s
  | .fcDbToggle => Sys2Proof.Machine.execFcDbToggle s
  | .fcSemaReq => Sys2Proof.Machine.execFcSemaReq s
  | .fcSemaRel => Sys2Proof.Machine.execFcSemaRel s
  | .fcSemaForce => Sys2Proof.Machine.execFcSemaForce s
  | .fcSoftResetSem => Sys2Proof.Machine.execFcSoftResetSem s
  | .fcSoftResetNoSem => Sys2Proof.Machine.execFcSoftResetNoSem s
  | .fcEnterSleep => Sys2Proof.Machine.execFcEnterSleep s
  | .fcReserved12 => Sys2Proof.Machine.execFcReserved12 s
  | .fcReserved17 => Sys2Proof.Machine.execFcReserved17 s
  | .fcReserved1B => Sys2Proof.Machine.execFcReserved1B s
  | .fcReserved1C => Sys2Proof.Machine.execFcReserved1C s
  | .fcReserved1D => Sys2Proof.Machine.execFcReserved1D s
  | .fcReserved1E => Sys2Proof.Machine.execFcReserved1E s
  | .fcReserved1F => Sys2Proof.Machine.execFcReserved1F s
  | .init => Sys2Proof.Machine.execInit s
  | .deinit => Sys2Proof.Machine.execDeinit s
  | .setChannel ch => Sys2Proof.Machine.execSetChannel ch s
  | .setSts mode len => Sys2Proof.Machine.execSetSts mode len s
  | .setCrcMode m => Sys2Proof.Machine.execSetCrcMode m s
  | .setFceDis b => Sys2Proof.Machine.execSetFceDis b s
  | .setZeroLenOk b => Sys2Proof.Machine.execSetZeroLenOk b s
  | .setLongFrames b => Sys2Proof.Machine.execSetLongFrames b s
  | .setCallback id present => Sys2Proof.Machine.execSetCallback id present s
  | .irqSrcModify and or => Sys2Proof.Machine.execIrqSrcModify and or s
  | .transact addr offset len mode fast buf => Sys2Proof.Machine.execTransact addr offset len mode fast buf s
  | .read8 addr offset => Sys2Proof.Machine.execRead8 addr offset s
  | .read16 addr offset => Sys2Proof.Machine.execRead16 addr offset s
  | .read32 addr offset => Sys2Proof.Machine.execRead32 addr offset s
  | .write8 addr offset v => Sys2Proof.Machine.execWrite8 addr offset v s
  | .write16 addr offset v => Sys2Proof.Machine.execWrite16 addr offset v s
  | .write32 addr offset v => Sys2Proof.Machine.execWrite32 addr offset v s
  | .modify8 addr offset and or => Sys2Proof.Machine.execModify8 addr offset and or s
  | .modify16 addr offset and or => Sys2Proof.Machine.execModify16 addr offset and or s
  | .modify32 addr offset and or => Sys2Proof.Machine.execModify32 addr offset and or s
  | .fastcmd addr => Sys2Proof.Machine.execFastcmd addr s
  | .startTx mode => Sys2Proof.Machine.execStartTx mode s
  | .startRx mode => Sys2Proof.Machine.execStartRx mode s
  | .forceTrxOff => Sys2Proof.Machine.execForceTrxOff s
  | .dblEnable autoReenable => Sys2Proof.Machine.execDblEnable autoReenable s
  | .dblDisable => Sys2Proof.Machine.execDblDisable s
  | .signalBufferFree => Sys2Proof.Machine.execSignalBufferFree s
  | .isrPass => Sys2Proof.Machine.execIsrPass s
  | .cmdReserved op => Sys2Proof.Machine.execCmdReserved op s

end Sys2Proof.Machine
end

