-- ==== Sys2Proof/Machine/Step.lean ====
section
/-! DEFINITION. One step of the machine: at a boundary between two actions (10_state.md R36, 60_exceptions.md R388) the
environment acts, a pass starts if the environment chose so and one may (R381), else the operation in progress takes its
next action, else the next input is taken. -/

namespace Sys2Proof.Machine

/-- The next input at the CMD port: a request is decoded and run, a handler's return is taken; with none the block waits. -/
def fetch (s : State) : Host.Outcome State Fault Refusal :=
  match s.inputs with
  | [] => .next s
  | inp :: rest =>
    match decode s.cfg inp with
    | some (.instr i) => exec i { s with inputs := rest }
    | some (.rejected _) => .refused .undecodable
    | none => returnFromHandler { s with inputs := rest }

/-- The step once the boundary is passed; `start` is the environment's choice (R381). -/
def advance (start : Bool) (s : State) : Host.Outcome State Fault Refusal :=
  if start && passMayStart s then .next (startPass .passIrq s)
  else
    match s.stack with
    | .task t :: below => .next (runTask t { s with stack := below, served := false })
    | .handler _ :: _ | [] => fetch s

/-- One step. A `Cfg` that is not well-formed is refused (00_scope.md R11); a halted block is stuck until a power cycle
(70_reset_and_hazards.md R437). -/
def step (s : State) : Host.Outcome State Fault Refusal :=
  if s.cfg.wf then
    if (boundary s).power then .next (powerCycle (tick s))
    else if s.seq.halted then .fault .halted
    else advance (boundary s).start (tick s)
  else .refused .cfgNotWellFormed

/-- The machine with the request of an opcode-table word as its next input, nothing in progress and nothing scheduled
(log 5, log 7). -/
def State.withFetchWord (s : State) (nbits w : Nat) : State :=
  match tableInput nbits w with
  | some inp => { s with inputs := inp :: s.inputs, stack := [], served := false, sched := [] }
  | none => s

end Sys2Proof.Machine
end

