-- ==== Sys2Proof/Safety.lean ====
section
/-! DEFINITION. What claims about runs are stated in: the invariant of a machine between two steps, and the ways a
machine stops. -/

namespace Sys2Proof.Machine

/-! ## The continuation stack -/

/-- The task stands between `IrqSaveDisable` and `IrqRestore` (43_trx_sequencer.md R263). -/
def Task.masked (t : Task) : Bool :=
  match t.pt with
  | .crit (.run _) _ | .crit (.unmask _ _) _ => true
  | _ => false

/-- A callback of the task runs. -/
def Task.isHeld (t : Task) : Bool :=
  match t.phase with
  | .held _ => true
  | .ready | .echo _ _ | .alarm _ => false

/-- What may stand directly under a task: nothing, a handler, or a foreground task outside its critical section that a
pass of the IRQ port pre-empted (60_exceptions.md R388). -/
def mayStandOn (t : Task) (below : List Entry) : Bool :=
  match below with
  | .task u :: _ => t.owner == .passIrq && !u.masked
  | .handler _ :: _ | [] => true

/-- A callback can run at this point: its action is a callback, or a read, whose check may raise the alarm (40_codec.md R150). -/
def canCallBack (p : Point) : Bool :=
  match p with
  | .read .. | .stateRead => true
  | .write .. | .crit .. | .dbl _ => false
  | .trx q _ =>
    match q with
    | .antRead | .dxRead _ | .lateRead => true
    | .pll | .dxWrite _ | .command | .lateOff | .lateRx => false
  | .pass q _ =>
    match q with
    | .capFstat | .capStatus | .capSub | .g2Hi | .g5Benign | .g5Finfo | .g8Read => true
    | .g2aCb | .g2bCb | .g3Cb | .g4Cb | .g5Err | .g5Ok | .g6Cb | .g7Cb | .g8Cb => true
    | .g2aLo | .g2aHi | .g2bHi | .g3Pll | .g3Clr | .g4Clr | .g5Clr | .g5Sub | .g5Toggle | .g5Flip | .g6Clr | .g6Toggle
    | .g6Flip | .g7Clr | .g7Toggle | .g7Flip | .g8Clr => false

/-- A task that waits inside an action is at a point whose action can wait. -/
def Task.coherent (t : Task) : Bool :=
  match t.phase with
  | .ready => true
  | .echo _ _ | .alarm _ | .held _ => canCallBack t.pt

/-- The shape of a continuation stack: only the task right under a running handler is held, and it is no task inside a critical section (R391). -/
def stackOk : List Entry → Bool
  | [] => true
  | .task t :: below => !t.isHeld && t.coherent && mayStandOn t below && stackOk below
  | .handler _ :: .task t :: below => t.isHeld && t.coherent && mayStandOn t below && stackOk below
  | .handler _ :: _ => false

/-- The operation in progress is inside its critical section. -/
def topMasked : List Entry → Bool
  | .task t :: _ => t.masked
  | .handler _ :: _ | [] => false

/-- How many passes are in progress. -/
def passCount (st : List Entry) : Nat :=
  st.countP Entry.isPass

/-! ## The invariant -/

/-- What holds between any two steps. -/
structure Invariant (s : State) : Prop where
  /-- the byte store is in canonical form -/
  memory : memWf s.env.chip.mem = true
  stack : stackOk s.stack = true
  /-- R263: `seq.irq_masked` exactly inside a critical section, which is the operation in progress -/
  masked : s.seq.irqMasked = topMasked s.stack
  /-- inside a critical section the platform's mask is closed (that the platform itself leaves it so: log 39) -/
  platform : s.seq.irqMasked = true → s.env.platMask = true
  /-- 10_state.md R38: `seq.in_pass` only while a pass runs -/
  inPass : s.seq.inPass = true → hasPass s.stack = true
  /-- 60_exceptions.md R389: a pass is not re-entrant (also after an `init` or `deinit` inside it: log 38) -/
  onePass : passCount s.stack ≤ 1
  /-- an action is due only of an operation in progress (the model's reading of 70_reset_and_hazards.md R429: log 37) -/
  due : s.served = true → topIsTask s.stack = true
  /-- 70_reset_and_hazards.md R437: the halted state needs `HALT_ON_PROTOCOL_ERROR` -/
  halted : s.seq.halted = true → s.cfg.HALT_ON_PROTOCOL_ERROR = true
  /-- 10_state.md R30: `rec.status_hi` has `STATUS_HI_WIDTH` bits -/
  statusHi : s.cfg.STATUS_HI_WIDTH = 16 → s.evt.statusHi.toNat < 0x10000

/-! ## Operations -/

/-- The block executes requests: between `init` and `deinit`, and not halted (60_exceptions.md R378). -/
def Ready (s : State) : Prop :=
  s.ctx.live = true ∧ s.seq.halted = false

/-- A ready machine whose environment schedules nothing: no pass starts from the IRQ port, no power cycle. -/
structure Undisturbed (s : State) : Prop where
  cfg : s.cfg.wf = true
  ready : Ready s
  sched : s.sched = []
  served : s.served = false

/-- The chip expects a trailer on writes exactly when the block sends one: "both ends must agree on the CRC mode
beforehand" (30_encoding.md R99). -/
def CrcAgree (s : State) : Prop :=
  s.env.chip.crcOn = (s.ctx.crcMode != .off)

/-- No read can fire `on_spi_read_crc_error` (40_codec.md R148, R150): the callback is absent, or reads are not checked. -/
def NoAlarm (s : State) : Prop :=
  s.ctx.has .onSpiReadCrcError = false ∨ s.ctx.crcMode ≠ .writeRead

/-- The operation `i`, requested in `s`, answers `y.1` and leaves `y.2`, by its first action and `k` further steps. -/
def RunsTo (i : Instr) (s : State) (y : Result × State) : Prop :=
  ∃ t k, exec i s = .next t ∧ Sys2Proof.core.run k t = .next { y.2 with trace := .answer y.1 :: y.2.trace }

/-- `i` is exactly one `BusWrite(hdr, body, crc)`, with the trailer of 40_codec.md R145 and R146, and the answer `Ok` or
`Err(BusError)`: nothing of the block changes. -/
def SendsOnce (i : Instr) (s : State) (hdr body : List Byte) : Prop :=
  let crc := if s.ctx.crcMode = .off then none else some (crc8 s.cfg (hdr ++ body))
  let y := transfer s.cfg (hdr ++ body ++ crc.toList) 0 s.env
  exec i s = .next
    { s with
      env := y.2
      trace := .answer (if y.1.isSome then .ok .unit else .err .busError) :: .busWrite hdr body crc y.1.isSome :: s.trace }

/-- `i` is exactly one `BusRead(hdr, n)` and the answer: its bytes read as `value` says, or `Err(BusError)`; nothing of
the block changes. -/
def FetchesOnce (i : Instr) (s : State) (hdr : List Byte) (n : Nat) (value : List Byte → Value) : Prop :=
  let y := transfer s.cfg hdr n s.env
  exec i s = .next
    { s with
      env := y.2
      trace := .answer (match y.1 with | some d => .ok (value d) | none => .err .busError) ::
        .busRead hdr n y.1 :: s.trace }

/-- The requests of a read at `addr` and `offset`: the request, its length, and the value of its bytes (41_accessors.md
R170 to R172, 40_codec.md R140). -/
inductive ReadRequest (c : Cfg) (addr : Word) (offset : Half) : Instr → Nat → (List Byte → Value) → Prop where
  | read8 : ReadRequest c addr offset (.read8 addr offset) 1 (fun d => .bits8 (byteAt d 0))
  | read16 : ReadRequest c addr offset (.read16 addr offset) 2 (fun d => .bits16 (byteAt d 1 ++ byteAt d 0))
  | read32 : ReadRequest c addr offset (.read32 addr offset) 4
      (fun d => .bits32 (byteAt d 3 ++ byteAt d 2 ++ byteAt d 1 ++ byteAt d 0))
  | transact (len : Half) (buf : List Byte) (h : 1 ≤ len.toNat) (hl : len.toNat < c.MAX_LEN) :
      ReadRequest c addr offset (.transact addr offset len 0x0000 false buf) len.toNat .bytes

/-- `i` answers `r` at once, and nothing else changes. -/
def AnswersOnly (i : Instr) (s : State) (r : Result) : Prop :=
  exec i s = .next { s with trace := .answer r :: s.trace }

/-- `i` answers `Ok` at once and the context becomes `x`; nothing else changes. -/
def SetsContext (i : Instr) (s : State) (x : Ctx) : Prop :=
  exec i s = .next { s with ctx := x, trace := .answer (.ok .unit) :: s.trace }

/-- `i` meets the protocol error (40_codec.md R143): the answer, or under `HALT_ON_PROTOCOL_ERROR` the halt; nothing else changes. -/
def ProtocolError (i : Instr) (s : State) : Prop :=
  exec i s = .next
    (if s.cfg.HALT_ON_PROTOCOL_ERROR then { s with seq := { s.seq with halted := true } }
     else { s with trace := .answer (.err .protocolError) :: s.trace })

/-- The rows that 30_encoding.md R104 calls invalid. -/
def isInvalidRow : Instr → Bool
  | .busInvalidFastRead _ | .busInvalidReadM1 .. | .busInvalidReadM2 .. | .busInvalidReadM3 .. => true
  | _ => false

/-- The transaction made next reaches the chip. -/
def reachesChip (n : Nat) (e : Env) : Bool :=
  match nextReply n e with
  | .fail reached => reached
  | .chip | .data _ => true

/-- The instruction that a step would fetch: nothing is in progress above it, and the next input decodes to it. -/
def fetches (s : State) (i : Instr) : Prop :=
  (∀ t below, s.stack ≠ .task t :: below) ∧ ∃ inp rest, s.inputs = inp :: rest ∧ decode s.cfg inp = some (.instr i)

/-- The place of a point in the fixed order of a pass (45_event_classifier.md R300). -/
def passRank : PassPt → Nat
  | .capFstat => 0
  | .capStatus => 1
  | .capSub => 2
  | .g2Hi => 3
  | .g2aLo => 4
  | .g2aHi => 5
  | .g2aCb => 6
  | .g2bHi => 7
  | .g2bCb => 8
  | .g3Pll => 9
  | .g3Cb => 10
  | .g3Clr => 11
  | .g4Cb => 12
  | .g4Clr => 13
  | .g5Benign => 14
  | .g5Finfo => 15
  | .g5Clr => 16
  | .g5Sub => 17
  | .g5Err => 18
  | .g5Ok => 18
  | .g5Toggle => 19
  | .g5Flip => 20
  | .g6Clr => 21
  | .g6Toggle => 22
  | .g6Flip => 23
  | .g6Cb => 24
  | .g7Clr => 25
  | .g7Toggle => 26
  | .g7Flip => 27
  | .g7Cb => 28
  | .g8Read => 29
  | .g8Clr => 30
  | .g8Cb => 31

/-- A message of the BUS port. -/
def Event.isBus : Event → Bool
  | .busWrite .. | .busRead .. => true
  | .irqSaveDisable _ | .irqRestore _ | .callback .. | .answer _ => false

/-- The mode byte of a start: its flavour bit and its modifier in bit 1 (30_encoding.md R113, R114). -/
def modeByte (flv : Flavour) (opt : Bool) : Byte :=
  (match flv with
   | .immediate => 0x00#8
   | .delayed => 0x01#8
   | .dlyRef => 0x04#8
   | .dlyRxTs => 0x08#8
   | .dlyTxTs => 0x10#8
   | .cca => 0x20#8) ||| (if opt then 0x02#8 else 0x00#8)

/-- The addresses of `n` bytes from a place of the register space on. -/
def cellKeys (file : File) (sub : Sub) (n : Nat) : List Nat :=
  (List.range n).map fun i => cellKey file (sub.toNat + i)

/-- The addresses of the `n` bytes of a register access. -/
def accessKeys (addr : Word) (offset : Half) (n : Nat) : List Nat :=
  cellKeys (fileOf (combined addr offset)) (subOf (combined addr offset)) n

/-! ## The pseudocode, run to its end

The operations of more than one action, written as their pseudocode, for runs in which no pass starts and no callback is
present (an absent callback "is skipped", 45_event_classifier.md R334). The machine takes these one action at a time;
claims say that it comes out the same. -/

/-- The rest of an operation: what it answers, and the state it leaves. -/
abbrev Whole := State → Result × State

/-- `return r` or `raise e`. -/
def Whole.ret (r : Result) : Whole := fun s => (r, s)

/-- `transact` of a write-class kind, then the rest; `BusError` is raised (40_codec.md R140). -/
def Whole.send (hdr body : List Byte) (k : Whole) : Whole := fun s =>
  match busWrite hdr body s with
  | (true, s') => k s'
  | (false, s') => (.err .busError, s')

/-- A read with the header `hdr`, then the rest: in mode `WriteRead` a checked one is followed by the echo read
(40_codec.md R140). -/
def Whole.fetchHdr (hdr : List Byte) (checked : Prop) [Decidable checked] (n : Nat) (k : List Byte → Whole) : Whole :=
  fun s =>
  match busRead hdr n s with
  | (none, s1) => (.err .busError, s1)
  | (some d, s1) =>
    if s.ctx.crcMode = .writeRead ∧ checked then
      match busRead (accessHdr .read s.cfg.REG.CRC_ECHO 0) 1 s1 with
      | (none, s2) => (.err .busError, s2)
      | (some _, s2) => k d s2
    else k d s1

/-- `transact(Read, addr, offset, n)`, then the rest; it is checked unless `addr` is `REG.CRC_ECHO` (R149). -/
def Whole.fetch (addr : Word) (offset : Half) (n : Nat) (k : List Byte → Whole) : Whole := fun s =>
  Whole.fetchHdr (accessHdr .read addr offset) (addr ≠ s.cfg.REG.CRC_ECHO) n k s

/-- A write to `ctx` or `rec`, then the rest. -/
def Whole.upd (f : State → State) (k : Whole) : Whole := fun s => k (f s)

/-- `if b: body`, then the rest. -/
def Whole.when (b : State → Bool) (body : Whole → Whole) (k : Whole) : Whole := fun s =>
  if b s then body k s else k s

/-- `writeN(addr, 0, v)` with the bytes of `v`. -/
def Whole.store (addr : Word) (bytes : List Byte) (k : Whole) : Whole :=
  Whole.send (accessHdr .write addr 0) bytes k

/-- `FastCmd(code)` (42_fastcmd.md R200). -/
def Whole.fast (code : File) (k : Whole) : Whole :=
  Whole.send [0x81#8 ||| code.setWidth 8 <<< 1] [] k

/-- `ant_correct(antreg)` (43_trx_sequencer.md R243). -/
def Whole.antCorrect (c : Cfg) (antreg : Word) (k : Whole) : Whole :=
  Whole.fetch antreg 0 2 fun a =>
  Whole.fetch c.REG.DX_TIME 0 4 fun dx =>
  Whole.store c.REG.DX_TIME (le32 (unLE32 dx - antDlyToDx c (unLE16 a))) k

/-- The correction of a flavour, if it has one (R245, R255). -/
def Whole.correct (c : Cfg) (flv : Flavour) (k : Whole) : Whole :=
  if flv = .dlyRxTs then Whole.antCorrect c c.REG.RX_ANTD k
  else if flv = .dlyTxTs then Whole.antCorrect c c.REG.TX_ANTD k
  else k

/-- `start_tx` with a valid mode (43_trx_sequencer.md R244). -/
def Whole.startTx (c : Cfg) (flv : Flavour) (w4r : Bool) : Whole :=
  Whole.correct c flv <|
  Whole.fast (txcmd c.FC flv w4r) <|
  if flv = .immediate ∨ flv = .cca then Whole.ret (.ok .unit)
  else Whole.fetch c.REG.STATUS_LO 3 1 fun b =>
    if byteAt b 0 &&& (c.M.HPDWARN >>> 24).setWidth 8 ≠ 0 then Whole.fast c.FC.TXRXOFF (Whole.ret (.err .late))
    else Whole.ret (.ok .unit)

/-- `start_rx` with a valid mode (43_trx_sequencer.md R252). -/
def Whole.startRx (c : Cfg) (flv : Flavour) (iol : Bool) : Whole :=
  Whole.store c.REG.PLL_COMMON (le16 c.PLL_COMMON_DEFAULT) <|
  if flv = .immediate then Whole.fast c.FC.RX (Whole.ret (.ok .unit))
  else
    Whole.correct c flv <|
    Whole.fast (rxcmd c.FC flv) <|
    Whole.fetch c.REG.STATUS_LO 3 1 fun b =>
    if byteAt b 0 &&& (c.M.HPDWARN >>> 24).setWidth 8 ≠ 0 then
      Whole.when (fun _ => c.RX_LATE_ISSUES_OFF) (Whole.fast c.FC.TXRXOFF) <|
      Whole.when (fun _ => !iol) (Whole.fast c.FC.RX) <|
      Whole.ret (.err .late)
    else Whole.ret (.ok .unit)

/-- `signal_buffer_free` past its test (44_dblbuf.md R286). -/
def Whole.free (c : Cfg) (k : Whole) : Whole :=
  Whole.fast c.FC.DB_TOGGLE <|
  Whole.upd (fun s => { s with ctx := { s.ctx with dbl := if s.ctx.dbl = .buffer0 then .buffer1 else .buffer0 } }) k

/-- `dbl_enable` (44_dblbuf.md R280). -/
def Whole.dblEnable (c : Cfg) (auto : Bool) : Whole :=
  let and := ~~~c.M.DIS_DRXB
  Whole.send (accessHdr .mod32 c.REG.SYS_CFG 0)
    (if auto then le32 and ++ le32 c.M.RXAUTR else le32 (and &&& ~~~c.M.RXAUTR) ++ le32 0) <|
  Whole.upd (fun s => { s with ctx := { s.ctx with dbl := .buffer0 } }) <|
  Whole.store c.REG.IND_ADDR (le32 (c.BUF1_FINFO_TARGET >>> 16)) <|
  Whole.store c.REG.IND_OFFSET (le32 (c.BUF1_FINFO_TARGET &&& 0x0000FFFF#32)) <|
  Whole.send (accessHdr .mod8 c.REG.DIAG_CFG c.DIAG_BYTE_OFF) [~~~c.M.MINDIAG, 0x00#8] <|
  Whole.ret (.ok .unit)

/-- `dbl_disable` (44_dblbuf.md R284). -/
def Whole.dblDisable (c : Cfg) : Whole :=
  Whole.send (accessHdr .mod32 c.REG.SYS_CFG 0) (le32 0xFFFFFFFF#32 ++ le32 c.M.DIS_DRXB) <|
  Whole.upd (fun s => { s with ctx := { s.ctx with dbl := .off } }) <|
  Whole.ret (.ok .unit)

/-- One write between `IrqSaveDisable` and `IrqRestore` (43_trx_sequencer.md R263, 46_context_ops.md R361). -/
def Whole.guarded (hdr body : List Byte) : Whole := fun s =>
  let tok := s.env.platMask
  let y := busWrite hdr body (maskOff s)
  (if y.1 then .ok .unit else .err .busError, maskOn tok y.2)

/-- `force_trx_off` (43_trx_sequencer.md R260). -/
def Whole.forceTrxOff (c : Cfg) : Whole :=
  Whole.fetch c.REG.SYS_STATE c.STATE_BYTE_OFF 1 fun b =>
  if c.IS_IDLE_CLASS.getLsbD (byteAt b 0).toNat then Whole.ret (.ok .unit)
  else Whole.guarded [0x81#8 ||| c.FC.TXRXOFF.setWidth 8 <<< 1] []

/-! ### The classifier pass (45_event_classifier.md R300) -/

/-- A write to the event record. -/
def Whole.record (f : EventRec → EventRec) (k : Whole) : Whole :=
  Whole.upd (fun s => { s with evt := f s.evt }) k

/-- `writeHI(REG.STATUS_HI, 0, m)`. -/
def Whole.storeHi (c : Cfg) (m : Word) (k : Whole) : Whole :=
  Whole.store c.REG.STATUS_HI (if c.STATUS_HI_WIDTH = 16 then le16 (m.setWidth 16) else le32 m) k

/-- `readHI(REG.STATUS_HI, 0)`. -/
def Whole.fetchHi (c : Cfg) (k : Word → Whole) : Whole :=
  if c.STATUS_HI_WIDTH = 16 then Whole.fetch c.REG.STATUS_HI 0 2 fun d => k ((unLE16 d).setWidth 32)
  else Whole.fetch c.REG.STATUS_HI 0 4 fun d => k (unLE32 d)

/-- `if ctx.dbl != Off: signal_buffer_free()`. -/
def Whole.freeIf (c : Cfg) (k : Whole) : Whole :=
  Whole.when (fun s => s.ctx.dbl != .off) (Whole.free c) k

/-- The frame-info word (20_memory.md R72). -/
def Whole.fetchFinfo (c : Cfg) (k : Half → Whole) : Whole := fun s =>
  let addr := match s.ctx.dbl with
    | .off => c.REG.FINFO
    | .buffer0 => c.REG.FINFO_B0
    | .buffer1 => c.REG.FINFO_B1
  Whole.fetch addr 0 2 (fun d => k (unLE16 d)) s

/-- The capture: the fast status and the merged low status word go on. -/
def Whole.capture (c : Cfg) (k : Byte → Word → Whole) : Whole :=
  Whole.fetch c.REG.FSTAT 0 1 fun f =>
  Whole.fetch c.REG.STATUS_LO 0 4 fun d => fun s =>
  let fstat := byteAt f 0
  let st := unLE32 d
  if s.ctx.dbl = .off then k fstat st s
  else
    Whole.fetch c.REG.RDB_STATUS 0 1 (fun raw => fun s =>
      let sdb := if s.ctx.dbl = .buffer1 then byteAt raw 0 >>> 4 else byteAt raw 0 &&& 0x0F#8
      let st1 := if sdb &&& c.M.DB_FCG ≠ 0 then st ||| c.M.RXFCG else st
      let st2 := if sdb &&& c.M.DB_FR ≠ 0 then st1 ||| c.M.RXFR else st1
      let st3 := if sdb &&& c.M.DB_CIADONE ≠ 0 then st2 ||| c.M.CIADONE else st2
      k fstat st3 s) s

/-- Group 2, system panic. -/
def Whole.group2 (c : Cfg) (fstat : Byte) (st : Word) (k : Whole) : Whole :=
  if fstat &&& c.M.F_PANIC ≠ 0 then
    Whole.fetchHi c fun hi =>
    Whole.record (fun r => { r with statusHi := hi }) <|
    Whole.when (fun _ => (st &&& c.M.SPICRCE) != 0 || (hi &&& c.M.HI_SPI_ERR) != 0)
      (fun k => Whole.store c.REG.STATUS_LO (le32 c.M.SPICRCE) <|
        Whole.storeHi c c.M.HI_SPI_ERR <| Whole.record (fun r => { r with cause := .spiErr }) k) <|
    Whole.when (fun _ => (hi &&& c.M.HI_CMD_ERR) != 0)
      (fun k => Whole.storeHi c c.M.HI_CMD_ERR <| Whole.record (fun r => { r with cause := .cmdErr }) k) k
  else k

/-- Groups 3 and 4, TX done and system ready. -/
def Whole.group34 (c : Cfg) (fstat : Byte) (k : Whole) : Whole :=
  Whole.when (fun _ => (fstat &&& c.M.F_TXOK) != 0)
    (fun k => Whole.store c.REG.PLL_COMMON (le16 c.PLL_COMMON_DEFAULT) <|
      Whole.store c.REG.STATUS_LO (le32 c.M.ALL_TX) k) <|
  Whole.when (fun _ => (fstat &&& c.M.F_SYSEVT) != 0) (Whole.store c.REG.STATUS_LO (le32 c.M.SYS_EVT_CLR)) k

/-- The benign test of group 5 (R314). -/
def Whole.benign (c : Cfg) (st : Word) (k : Bool → Whole) : Whole := fun s =>
  if st &&& c.M.RXFCE ≠ 0 ∧ s.ctx.zeroLenOk = true then
    Whole.fetchFinfo c (fun fi => fun s => k ((fi &&& lenmask c s.ctx) == 0) s) s
  else k false s

/-- Group 5 past its gate; the absorbed bit goes on. -/
def Whole.group5 (c : Cfg) (st : Word) (benign : Bool) (k : Word → Whole) : Whole :=
  Whole.record (fun r => if st &&& c.M.CIAERR ≠ 0 then { r with flags := { r.flags with ciaErr := true } } else r) <|
  Whole.record (fun r => if st &&& c.M.CIADONE ≠ 0 then { r with flags := { r.flags with ciaDone := true } } else r) <|
  Whole.record (fun r => if st &&& c.M.CPERR ≠ 0 then { r with flags := { r.flags with stsErr := true } } else r) <|
  fun s =>
  let nodata := (s.ctx.stsMode &&& c.STS_ND_MASK) == c.STS_ND_MASK || benign
  let clr := if nodata then c.M.ALL_RX_GOOD ||| (st &&& c.M.RXFCE) else c.M.ALL_RX_GOOD
  let rest : Whole :=
    Whole.store c.REG.STATUS_LO (le32 clr) <|
    Whole.when (fun s => s.ctx.dbl != .off)
      (fun k => fun s => Whole.store c.REG.RDB_STATUS [if s.ctx.dbl = .buffer1 then c.M.DB_CLR <<< 4 else c.M.DB_CLR] k s) <|
    Whole.record (fun r => if r.datalen = 0 ∧ r.flags.noData = false then
      { r with flags := { r.flags with phrErr := true } } else r) <|
    Whole.freeIf c <|
    k (clr &&& c.M.RXFCE)
  if nodata then Whole.record (fun r => { r with datalen := 0, flags := { r.flags with noData := true } }) rest s
  else if st &&& c.M.RXFCG ≠ 0 ∨ (st &&& c.M.RXFR ≠ 0 ∧ s.ctx.fceDis = true) then
    Whole.fetchFinfo c (fun fi => fun s =>
      Whole.record (fun r => { r with datalen := fi &&& lenmask c s.ctx, rng := (fi &&& c.RNG_MASK) != 0 }) rest s) s
  else rest s

/-- Groups 6, 7 and 8. -/
def Whole.group678 (c : Cfg) (fstat : Byte) (st absorbed : Word) : Whole :=
  Whole.when (fun _ => (fstat &&& c.M.F_RXERR) != 0 && !(absorbed != 0 && (st &&& c.M.RX_ERR &&& ~~~absorbed) == 0))
    (fun k => Whole.store c.REG.STATUS_LO (le32 (c.M.RX_ERR ||| c.M.CIADONE ||| c.M.RXFR)) <| Whole.freeIf c k) <|
  Whole.when (fun _ => (fstat &&& c.M.F_RXTO) != 0)
    (fun k => Whole.store c.REG.STATUS_LO (le32 (c.M.RX_TO ||| c.M.CIADONE)) <| Whole.freeIf c k) <|
  if c.HAS_DUAL_SPI then
    Whole.fetch c.REG.DSS_STAT 0 1 fun d =>
    Whole.record (fun r => { r with dss := byteAt d 0 }) <|
    Whole.when (fun _ => (byteAt d 0 &&& c.M.DSS_AVAIL) != 0)
      (Whole.store c.REG.DSS_STAT [byteAt d 0 &&& c.M.DSS_AVAIL]) <|
    Whole.ret (.ok .unit)
  else Whole.ret (.ok .unit)

/-- `isr_pass` after its entry sequence. -/
def Whole.pass (c : Cfg) : Whole :=
  Whole.capture c fun fstat st =>
  Whole.record (fun r => { r with status := st }) <|
  Whole.group2 c fstat st <|
  Whole.group34 c fstat <|
  Whole.benign c st fun benign =>
  if fstat &&& c.M.F_RXOK ≠ 0 ∨ benign = true then Whole.group5 c st benign (Whole.group678 c fstat st)
  else Whole.group678 c fstat st 0

/-! ## Stops -/

/-- The machine goes on from this state. -/
def Runs (s : State) : Prop :=
  ∃ t, step s = .next t

/-- The machine is stuck for good: it and everything a step could make of it faults. -/
def Stuck (s : State) : Prop :=
  ∀ k, Sys2Proof.core.run (k + 1) s = .fault Fault.halted

end Sys2Proof.Machine
end

