-- ==== Sys2Proof/Certificates/Slice0/Obligations.lean ====
section
/-! DEFINITION. The statements for the provers. -/

open Sys2Proof Sys2Proof.Machine

/-! ## Reset, life cycle and context operations -/

/-- 10_state.md R42: the table, at power-on and after `init`. -/
def Obligations.PowerOnAndInitState : Prop :=
  (State.reset.ctx =
      { live := false, channel := 0, stsMode := 0, stsLen := 0, crcMode := .off, dbl := .off, fceDis := false,
        zeroLenOk := false, longFrames := false, cb := 0 } ∧
    State.reset.evt =
      { datalen := 0, rng := false, status := 0, statusHi := 0, dss := 0, cause := .none,
        flags := { ciaDone := false, ciaErr := false, stsErr := false, noData := false, phrErr := false } } ∧
    State.reset.seq = { inPass := false, irqMasked := false, halted := false }) ∧
  ∀ s, s.seq.halted = false → ∃ t, exec .init s = .next t ∧
    t.ctx = { State.reset.ctx with live := true } ∧ t.evt = State.reset.evt ∧ t.seq = State.reset.seq ∧
    ∀ f, t.ctx.has f = false

/-- 46_context_ops.md R350: `init`, its op code, and its effect: accepted whatever `ctx.live` is, it re-creates the
context, the record and the sequencer, and emits nothing but its answer. (A halted block accepts nothing: R437.) -/
def Obligations.InitRecreatesContext : Prop :=
  (∀ r : CmdReq, decodeCmd r = .init ↔ r.op = 0x00) ∧
  ∀ s, s.seq.halted = false →
    exec .init s = .next
      { s with
        ctx :=
          { live := true, channel := 0, stsMode := 0, stsLen := 0, crcMode := .off, dbl := .off, fceDis := false,
            zeroLenOk := false, longFrames := false, cb := 0 }
        evt :=
          { datalen := 0, rng := false, status := 0, statusHi := 0, dss := 0, cause := .none,
            flags := { ciaDone := false, ciaErr := false, stsErr := false, noData := false, phrErr := false } }
        seq := { inPass := false, irqMasked := false, halted := false }
        trace := .answer (.ok .unit) :: s.trace }

/-- 70_reset_and_hazards.md R417: `deinit` returns the block to the power-on state and does not touch the chip. -/
def Obligations.DeinitReturnsToPowerOn : Prop :=
  ∀ s, Ready s →
    exec .deinit s = .next
      { s with
        ctx := State.reset.ctx
        evt := State.reset.evt
        seq := State.reset.seq
        trace := .answer (.ok .unit) :: s.trace }

/-- 46_context_ops.md R352 to R359: every setter writes its field of `ctx` and does nothing else; the callback table is
read through its entries. -/
def Obligations.SettersWriteContextOnly : Prop :=
  ∀ s, Ready s →
    (∀ ch, SetsContext (.setChannel ch) s { s.ctx with channel := ch }) ∧
    (∀ mode len, SetsContext (.setSts mode len) s { s.ctx with stsMode := mode, stsLen := len }) ∧
    SetsContext (.setCrcMode 0) s { s.ctx with crcMode := .off } ∧
    SetsContext (.setCrcMode 1) s { s.ctx with crcMode := .write } ∧
    SetsContext (.setCrcMode 2) s { s.ctx with crcMode := .writeRead } ∧
    AnswersOnly (.setCrcMode 3) s (.err .invalidArgument) ∧
    (∀ b, SetsContext (.setFceDis b) s { s.ctx with fceDis := b }) ∧
    (∀ b, SetsContext (.setZeroLenOk b) s { s.ctx with zeroLenOk := b }) ∧
    (∀ b, SetsContext (.setLongFrames b) s { s.ctx with longFrames := b }) ∧
    (∀ id present, ∃ cb, SetsContext (.setCallback id present) s { s.ctx with cb } ∧
      ∀ f, ({ s.ctx with cb } : Ctx).has f = if f.num = id.toNat then present else s.ctx.has f)

/-- 10_state.md R22 to R29: which operations write which field of the context. -/
def Obligations.ContextFieldWriters : Prop :=
  ∀ s t, step s = .next t → (boundary s).power = false →
    (t.ctx.live ≠ s.ctx.live → fetches s .init ∨ fetches s .deinit) ∧
    (t.ctx.channel ≠ s.ctx.channel → fetches s .init ∨ fetches s .deinit ∨ ∃ c, fetches s (.setChannel c)) ∧
    (t.ctx.stsMode ≠ s.ctx.stsMode ∨ t.ctx.stsLen ≠ s.ctx.stsLen →
      fetches s .init ∨ fetches s .deinit ∨ ∃ m l, fetches s (.setSts m l)) ∧
    (t.ctx.crcMode ≠ s.ctx.crcMode → fetches s .init ∨ fetches s .deinit ∨ ∃ m, fetches s (.setCrcMode m)) ∧
    (t.ctx.fceDis ≠ s.ctx.fceDis → fetches s .init ∨ fetches s .deinit ∨ ∃ b, fetches s (.setFceDis b)) ∧
    (t.ctx.zeroLenOk ≠ s.ctx.zeroLenOk → fetches s .init ∨ fetches s .deinit ∨ ∃ b, fetches s (.setZeroLenOk b)) ∧
    (t.ctx.longFrames ≠ s.ctx.longFrames → fetches s .init ∨ fetches s .deinit ∨ ∃ b, fetches s (.setLongFrames b)) ∧
    (t.ctx.cb ≠ s.ctx.cb → fetches s .init ∨ fetches s .deinit ∨ ∃ id p, fetches s (.setCallback id p))

/-- 10_state.md R25, R34: which steps write `ctx.dbl`, and that a flip moves it to the other buffer. (From `Off` the
flip's pseudocode gives `Buffer0`: the model's reading, log 24.) -/
def Obligations.DoubleBufferWriters : Prop :=
  ∀ s t, Invariant s → step s = .next t → (boundary s).power = false → t.ctx.dbl ≠ s.ctx.dbl →
    fetches s .init ∨ fetches s .deinit ∨
    ∃ o p ph below, s.stack = .task { owner := o, pt := p, phase := ph } :: below ∧
      ((p = .dbl .enSet ∧ t.ctx.dbl = .buffer0) ∨ (p = .dbl .disSet ∧ t.ctx.dbl = .off) ∨
        ((p = .dbl .flip ∨ (∃ v, p = .pass .g5Flip v ∨ p = .pass .g6Flip v ∨ p = .pass .g7Flip v)) ∧
          t.ctx.dbl = if s.ctx.dbl = .buffer0 then .buffer1 else .buffer0))

/-- 10_state.md R21, 60_exceptions.md R376 (b): before `init` and after `deinit` every operation but `init` answers
`Err(InvalidArgument)`, and nothing reaches the bus. (That a frame row `BUS.*` or `FC.*` is a request with an answer, and
so meets this check, is the model's choice: log 6.) -/
def Obligations.OperationsNeedLive : Prop :=
  ∀ s i, s.ctx.live = false → s.seq.halted = false → i ≠ .init → isInvalidRow i = false →
    AnswersOnly i s (.err .invalidArgument)

/-- 30_encoding.md R115: every op code outside R112's table. -/
def Obligations.ReservedOpCodesAnswerInvalidArgument : Prop :=
  ∀ (s : State) (r : CmdReq), s.seq.halted = false →
    r.op ∉ [0x00#8, 0x01#8, 0x02#8, 0x03#8, 0x04#8, 0x05#8, 0x06#8, 0x07#8, 0x08#8, 0x09#8, 0x10#8, 0x11#8, 0x12#8,
      0x13#8, 0x14#8, 0x15#8, 0x16#8, 0x17#8, 0x18#8, 0x19#8, 0x20#8, 0x30#8, 0x31#8, 0x32#8, 0x40#8, 0x41#8, 0x42#8,
      0x50#8] →
    decodeCmd r = .cmdReserved r.op ∧ AnswersOnly (.cmdReserved r.op) s (.err .invalidArgument)

/-- 70_reset_and_hazards.md R437: a halted block accepts nothing and runs no pass; a power cycle leaves the state; and no
step enters it with the default parameter. (The power cycle as a slot of the schedule that gives R410's power-on state and
drops every operation in progress is the model's reading: log 20.) -/
def Obligations.HaltedUntilPowerCycle : Prop :=
  (∀ s, s.seq.halted = true → s.cfg.wf = true →
    (∀ i t, exec i s ≠ .next t) ∧
    ((boundary s).power = false → step s = .fault .halted) ∧
    ((boundary s).power = true →
      ∃ t, step s = .next t ∧ t.seq = State.reset.seq ∧ t.ctx = State.reset.ctx ∧ t.evt = State.reset.evt ∧ t.stack = [])) ∧
  ∀ s t, s.cfg.HALT_ON_PROTOCOL_ERROR = false → s.seq.halted = false → step s = .next t → t.seq.halted = false

/-- 40_codec.md R143, 70_reset_and_hazards.md R437: the halted state is entered only under `HALT_ON_PROTOCOL_ERROR`,
by one of the requests that can meet the protocol error. -/
def Obligations.HaltNeedsParameter : Prop :=
  ∀ s t, step s = .next t → s.seq.halted = false → t.seq.halted = true →
    s.cfg.HALT_ON_PROTOCOL_ERROR = true ∧
    ∃ i, fetches s i ∧
      ((∃ a o l m f b, i = .transact a o l m f b) ∨ (∃ a, i = .fastcmd a) ∨ (∃ f l, i = .busRdShort f l) ∨
        (∃ f b, i = .busWrShort f b) ∨ (∃ f u l, i = .busRdExt f u l) ∨ ∃ f u b, i = .busWrExt f u b)

/-! ## Encodings -/

/-- Words of 40_codec.md R154, 42_fastcmd.md R202 and 95_test_vectors.md section 2, read by the decoders. -/
def Obligations.VectorWordsDecode : Prop :=
  decode Config.RM0 (.frame { bytes := [0x41, 0x10], rlen := 4 }) = some (.instr (.busRdExt 0x00 0x44 4)) ∧
  decode Config.RM0 (.frame { bytes := [0xC1, 0x10, 0x00, 0x20, 0x00, 0x00] }) =
    some (.instr (.busWrExt 0x00 0x44 [0x00, 0x20, 0x00, 0x00])) ∧
  decode Config.RM0 (.frame { bytes := [0x3E], rlen := 1 }) = some (.instr (.busRdShort 0x1F 1)) ∧
  decode Config.RM0 (.frame { bytes := [0xDC, 0x09, 0xEF, 0x00] }) = some (.instr (.busMod8 0x0E 0x02 0xEF 0x00)) ∧
  decode Config.RM0 (.frame { bytes := [0x81] }) = some (.instr .fcTxrxoff) ∧
  decode Config.RM0 (.frame { bytes := [0xA7] }) = some (.instr .fcDbToggle) ∧
  decode Config.RM0 (.frame { bytes := [0x01] }) = some (.instr (.busInvalidFastRead 0)) ∧
  decode Config.RM0 (.cmd { op := 0x16, addr := 0x2C, v0 := 0x10000 }) = some (.instr (.write32 0x2C 0 0x10000)) ∧
  decode Config.RM0 (.cmd { op := 0x31, mode := 0x03 }) = some (.instr (.startRx 0x03)) ∧
  decodeFrame Config.RM0 true [0xC1, 0x10, 0x00, 0x20, 0x00, 0x00, 0xC2] =
    .frame { kind := .write, ext := true, file := 0, sub := 0x44, payload := [0x00, 0x20, 0x00, 0x00], crcOk := true } ∧
  decodeFrame Config.RM0 true [0xA7, 0x7C] =
    .frame { kind := .fast, ext := false, file := 0x13, sub := 0, payload := [], crcOk := true }

/-- Decoding what the encoder writes for a well-formed instruction gives the instruction, for every row of the table. -/
def Obligations.DecodeOfEncodeIsIdentity : Prop :=
  ∀ (c : Cfg) (i : Instr), c.wf = true → WellFormed c i = true → decode c (encode c i) = some (.instr i)

/-- 30_encoding.md R106: every frame the codec sends for an admitted request decodes to its kind, file, sub-address and
payload, with a good CRC, with and without the trailer. -/
def Obligations.FrameRoundTrip : Prop :=
  ∀ (c : Cfg) (crcOn : Bool) (k : Kind) (file : File) (sub : Sub) (payload : List Byte),
    (k = .read → payload = []) → (k = .fast → payload = [] ∧ sub = 0) →
    (k.isModify = true → payload.length = k.modLen) →
    ∃ f, decodeFrame c crcOn (frameBytes c (headerOf k file sub) payload (crcOn && k != .read)) = .frame f ∧
      f.kind = k ∧ f.file = file ∧ f.sub = sub ∧ f.payload = payload ∧ f.crcOk = true

/-- 30_encoding.md R92, R103: which header a request gets, and its bytes as numbers. -/
def Obligations.HeaderFormula : Prop :=
  ∀ (k : Kind) (file : File) (sub : Sub),
    let w := if k = .read then 0 else 1
    let m := match k with
      | .mod8 => 1
      | .mod16 => 2
      | .mod32 => 3
      | .read | .write | .fast => 0
    let word (x : Nat) := w * 0x8000 + x * 0x4000 + file.toNat * 0x200 + sub.toNat * 4 + m
    (k = .fast → (headerOf k file sub).map (·.toNat) = [0x81 + 2 * file.toNat]) ∧
    ((k = .read ∨ k = .write) → sub = 0 → (headerOf k file sub).map (·.toNat) = [word 0 / 256]) ∧
    (k ≠ .fast → ¬((k = .read ∨ k = .write) ∧ sub = 0) →
      (headerOf k file sub).map (·.toNat) = [word 1 / 256, word 1 % 256])

/-- 20_memory.md R63, 70_reset_and_hazards.md R432: addresses that agree in bits 20:16 and 6:0 give the same header. -/
def Obligations.AddressBitsDropped : Prop :=
  ∀ (k : Kind) (a b : Word) (o p : Half),
    (∀ i : Nat, (16 ≤ i ∧ i ≤ 20) ∨ i ≤ 6 →
      (a + o.setWidth 32).getLsbD i = (b + p.setWidth 32).getLsbD i) →
    accessHdr k a o = accessHdr k b p

/-- 30_encoding.md R104: the patterns a decoder reports as invalid, the codec never sends, and the four rows refuse. -/
def Obligations.InvalidPatternsRefused : Prop :=
  (∀ (c : Cfg) (crcOn : Bool) (b0 : Byte) (rest : List Byte),
    b0.getLsbD 7 = false → b0.getLsbD 6 = false → b0.getLsbD 0 = true →
    decodeFrame c crcOn (b0 :: rest) = .invalid (.fastWithReadBit (b0.extractLsb' 1 5)) ∧
    ∀ k file sub more, headerOf k file sub ≠ b0 :: more) ∧
  (∀ (c : Cfg) (crcOn : Bool) (b0 b1 : Byte) (rest : List Byte),
    b0.getLsbD 7 = false → b0.getLsbD 6 = true → b1.extractLsb' 0 2 ≠ 0 →
    (∃ f u m, decodeFrame c crcOn (b0 :: b1 :: rest) = .invalid (.readWithModifyWidth f u m)) ∧
    ∀ k file sub, headerOf k file sub ≠ [b0, b1]) ∧
  ∀ (s : State) (file : File) (sub : Sub),
    exec (.busInvalidFastRead file) s = .refused (.invalidFrame .fastCommandWithReadBit) ∧
    exec (.busInvalidReadM1 file sub) s = .refused (.invalidFrame .readWithModifyWidth) ∧
    exec (.busInvalidReadM2 file sub) s = .refused (.invalidFrame .readWithModifyWidth) ∧
    exec (.busInvalidReadM3 file sub) s = .refused (.invalidFrame .readWithModifyWidth)

/-- 30_encoding.md R101: the two composition laws of the CRC, that a message with its CRC has remainder 0, and R101's
values under RM0. -/
def Obligations.CrcComposition : Prop :=
  (∀ (poly init : Byte) (a b : List Byte),
    crc8From poly init [] = init ∧
    crc8From poly init (a ++ b) = crc8From poly (crc8From poly init a) b ∧
    crc8From poly init (a ++ [crc8From poly init a]) = 0) ∧
  (List.range 16).map (fun i => crc8 Config.RM0 [BitVec.ofNat 8 i]) =
    [0x00, 0x07, 0x0E, 0x09, 0x1C, 0x1B, 0x12, 0x15, 0x38, 0x3F, 0x36, 0x31, 0x24, 0x23, 0x2A, 0x2D] ∧
  (List.range 4).map (fun i => crc8 Config.RM0 [BitVec.ofNat 8 (252 + i)]) = [0xFA, 0xFD, 0xF4, 0xF3] ∧
  crc8 Config.RM0 [0x80] = 0x89 ∧
  crc8 Config.RM0 [0x31, 0x32, 0x33, 0x34, 0x35, 0x36, 0x37, 0x38, 0x39] = 0xF4

/-- 30_encoding.md R102: changing exactly one byte changes the CRC, for every generator with a constant term. -/
def Obligations.CrcDetectsOneChangedByte : Prop :=
  ∀ (poly init x y : Byte) (a b : List Byte), poly.getLsbD 0 = true → x ≠ y →
    crc8From poly init (a ++ x :: b) ≠ crc8From poly init (a ++ y :: b)

/-! ## Codec, accessors, fast commands, bus frames -/

/-- 40_codec.md R141 to R143: a request that is not admitted meets the protocol error and nothing else. (A fast flag with
another mode word than `0x8000` is unrecognized: the model's reading, log 23.) -/
def Obligations.TransactAdmission : Prop :=
  ∀ (s : State) (addr : Word) (offset len mode : Half) (fast : Bool) (buf : List Byte), Ready s →
    (fast = true ∧ (mode ≠ 0x8000 ∨ len ≠ 0 ∨ 32 ≤ addr.toNat ∨ offset ≠ 0 ∨ buf ≠ [])) ∨
    (fast = false ∧
      (mode ∉ [0x0000#16, 0x8000#16, 0x8001#16, 0x8002#16, 0x8003#16] ∨ len = 0 ∨ s.cfg.MAX_LEN ≤ len.toNat ∨
        (mode = 0x8001 ∧ len ≠ 2) ∨ (mode = 0x8002 ∧ len ≠ 4) ∨ (mode = 0x8003 ∧ len ≠ 8) ∨
        (mode ≠ 0x0000 ∧ buf.length ≠ len.toNat))) →
    ProtocolError (.transact addr offset len mode fast buf) s

/-- 40_codec.md R145, R146: an admitted write-class request is exactly one `BusWrite`, with no trailer in mode `Off` and
with `crc8(hdr ++ wbuf)` in the modes `Write` and `WriteRead`. -/
def Obligations.TransactSendsOneFrame : Prop :=
  ∀ (s : State) (addr : Word) (offset : Half) (buf : List Byte), Ready s →
    (1 ≤ buf.length → buf.length < s.cfg.MAX_LEN → buf.length < 0x10000 →
      SendsOnce (.transact addr offset (BitVec.ofNat 16 buf.length) 0x8000 false buf) s
        (headerOf .write (fileOf (combined addr offset)) (subOf (combined addr offset))) buf) ∧
    (∀ k mode, (k, mode) ∈ [(Kind.mod8, 0x8001#16), (.mod16, 0x8002#16), (.mod32, 0x8003#16)] →
      k.modLen < s.cfg.MAX_LEN → buf.length = k.modLen →
      SendsOnce (.transact addr offset (BitVec.ofNat 16 buf.length) mode false buf) s
        (headerOf k (fileOf (combined addr offset)) (subOf (combined addr offset))) buf) ∧
    (addr.toNat < 32 → SendsOnce (.transact addr 0 0 0x8000 true []) s [0x81#8 ||| addr.setWidth 8 <<< 1] [])

/-- 41_accessors.md R173 to R178: op code, operands and the one transaction of each write and modify accessor. -/
def Obligations.WriteAccessorsSendOneFrame : Prop :=
  ∀ (s : State) (addr : Word) (offset : Half), Ready s →
    (∀ v : Byte, decodeCmd { op := 0x14, addr, offset, v0 := v.setWidth 32 } = .write8 addr offset v ∧
      SendsOnce (.write8 addr offset v) s (accessHdr .write addr offset) [v]) ∧
    (∀ v : Half, decodeCmd { op := 0x15, addr, offset, v0 := v.setWidth 32 } = .write16 addr offset v ∧
      SendsOnce (.write16 addr offset v) s (accessHdr .write addr offset)
        [v.extractLsb' 0 8, v.extractLsb' 8 8]) ∧
    (∀ v : Word, decodeCmd { op := 0x16, addr, offset, v0 := v } = .write32 addr offset v ∧
      SendsOnce (.write32 addr offset v) s (accessHdr .write addr offset)
        [v.extractLsb' 0 8, v.extractLsb' 8 8, v.extractLsb' 16 8, v.extractLsb' 24 8]) ∧
    (∀ a o : Byte, decodeCmd { op := 0x17, addr, offset, v0 := a.setWidth 32, v1 := o.setWidth 32 } =
        .modify8 addr offset a o ∧
      SendsOnce (.modify8 addr offset a o) s (accessHdr .mod8 addr offset) [a, o]) ∧
    (∀ a o : Half, decodeCmd { op := 0x18, addr, offset, v0 := a.setWidth 32, v1 := o.setWidth 32 } =
        .modify16 addr offset a o ∧
      SendsOnce (.modify16 addr offset a o) s (accessHdr .mod16 addr offset)
        [a.extractLsb' 0 8, a.extractLsb' 8 8, o.extractLsb' 0 8, o.extractLsb' 8 8]) ∧
    (∀ a o : Word, decodeCmd { op := 0x19, addr, offset, v0 := a, v1 := o } = .modify32 addr offset a o ∧
      SendsOnce (.modify32 addr offset a o) s (accessHdr .mod32 addr offset)
        [a.extractLsb' 0 8, a.extractLsb' 8 8, a.extractLsb' 16 8, a.extractLsb' 24 8,
         o.extractLsb' 0 8, o.extractLsb' 8 8, o.extractLsb' 16 8, o.extractLsb' 24 8])

/-- 41_accessors.md R170 to R172, 40_codec.md R148 to R151: `read8`, `read16`, `read32` and `transact` of a read, in every
CRC mode, when no alarm can be raised: one transaction, and in mode `WriteRead` the echo read of another address than
`REG.CRC_ECHO`. -/
def Obligations.ReadsRunToTheirValue : Prop :=
  ∀ (s : State) (addr : Word) (offset : Half) (i : Instr) (n : Nat) (v : List Byte → Value), Undisturbed s → NoAlarm s →
    ReadRequest s.cfg addr offset i n v →
    RunsTo i s (Whole.fetch addr offset n (fun d => .ret (.ok (v d))) s)

/-- 40_codec.md R148: with `ctx.crc_mode` `Off` or `Write`, and for `REG.CRC_ECHO` itself (R149), a read (`read8`, `read16`,
`read32`, `transact`) is one transaction whatever callbacks are present. -/
def Obligations.UncheckedReadsAreOneTransaction : Prop :=
  ∀ (s : State) (addr : Word) (offset : Half) (i : Instr) (n : Nat) (v : List Byte → Value), Ready s →
    (s.ctx.crcMode ≠ .writeRead ∨ addr = s.cfg.REG.CRC_ECHO) → ReadRequest s.cfg addr offset i n v →
    FetchesOnce i s (accessHdr .read addr offset) n v

/-- 40_codec.md R148: a checked read (`read8`, `read16`, `read32`, `transact`) whose echo is the CRC over header and data
answers its value after the two reads, whatever callbacks are present; nothing of the block changes, and no register of
the chip. -/
def Obligations.CheckedReadWithEqualEcho : Prop :=
  ∀ (s : State) (addr : Word) (offset : Half) (i : Instr) (n : Nat) (v : List Byte → Value) (d : List Byte)
    (rest : List Reply), Undisturbed s → s.ctx.crcMode = .writeRead → addr ≠ s.cfg.REG.CRC_ECHO →
    ReadRequest s.cfg addr offset i n v → d.length = n →
    s.env.replies = .data d :: .data [crc8 s.cfg (accessHdr .read addr offset ++ d)] :: rest →
    ∃ u, RunsTo i s (.ok (v d), u) ∧
      u.trace =
        .busRead (accessHdr .read s.cfg.REG.CRC_ECHO 0) 1 (some [crc8 s.cfg (accessHdr .read addr offset ++ d)]) ::
          .busRead (accessHdr .read addr offset) n (some d) :: s.trace ∧
      u.ctx = s.ctx ∧ u.evt = s.evt ∧ u.seq = s.seq ∧ u.stack = s.stack ∧ u.inputs = s.inputs ∧
      u.env.chip.mem = s.env.chip.mem ∧ u.env.replies = rest

/-- 40_codec.md R150: on a CRC mismatch of a read (`read8`, `read16`, `read32`, `transact`) the callback fires with the
record unchanged, its handler runs, and on its return the read answers `Ok` with the received bytes. -/
def Obligations.ReadCrcMismatchFiresCallback : Prop :=
  ∀ (s : State) (addr : Word) (offset : Half) (i : Instr) (n : Nat) (v : List Byte → Value) (d : List Byte) (e : Byte)
    (rest : List Reply) (inputs : List Input),
    Undisturbed s → s.ctx.crcMode = .writeRead → addr ≠ s.cfg.REG.CRC_ECHO →
    s.ctx.has .onSpiReadCrcError = true → ReadRequest s.cfg addr offset i n v → d.length = n →
    s.env.replies = .data d :: .data [e] :: rest → crc8 s.cfg (accessHdr .read addr offset ++ d) ≠ e →
    ∃ t k u x, exec i s = .next t ∧ Sys2Proof.core.run k t = .next u ∧
      u.trace = .callback .onSpiReadCrcError s.evt s.ctx :: .busRead (accessHdr .read s.cfg.REG.CRC_ECHO 0) 1 (some [e]) ::
        .busRead (accessHdr .read addr offset) n (some d) :: s.trace ∧
      (∃ w, u.stack = .handler .onSpiReadCrcError :: w :: s.stack) ∧
      u.ctx = s.ctx ∧ u.evt = s.evt ∧
      step { u with inputs := .ret :: inputs } = .next x ∧
      x.trace = .answer (.ok (v d)) :: u.trace ∧ x.stack = s.stack ∧ x.ctx = s.ctx ∧ x.evt = s.evt ∧
      x.inputs = inputs

/-- 42_fastcmd.md R200: `FASTCMD`, its code, and its operand check. -/
def Obligations.FastcmdSendsItsCode : Prop :=
  ∀ (s : State) (r : CmdReq), Ready s → r.op = 0x20 →
    decodeCmd r = .fastcmd r.addr ∧
    (r.addr.toNat < 32 → SendsOnce (.fastcmd r.addr) s [0x81#8 ||| r.addr.setWidth 8 <<< 1] []) ∧
    (32 ≤ r.addr.toNat → ProtocolError (.fastcmd r.addr) s)

/-- 42_fastcmd.md R202 to R230: every catalogued command, every reserved code and every other code is one fast frame, and
changes no field of the block. (That the rows `FC.*` and `BUS.FAST` are requests of their own that run and answer is the
model's choice: log 6; that reserved codes are sent and not refused: log 21.) -/
def Obligations.FastCommandsSendOneFrame : Prop :=
  ∀ s, Ready s →
    (∀ p ∈ [(Instr.fcTxrxoff, s.cfg.FC.TXRXOFF), (.fcTx, s.cfg.FC.TX), (.fcRx, s.cfg.FC.RX), (.fcDtx, s.cfg.FC.DTX),
        (.fcDrx, s.cfg.FC.DRX), (.fcDtxTs, s.cfg.FC.DTX_TS), (.fcDrxTs, s.cfg.FC.DRX_TS), (.fcDtxRs, s.cfg.FC.DTX_RS),
        (.fcDrxRs, s.cfg.FC.DRX_RS), (.fcDtxRef, s.cfg.FC.DTX_REF), (.fcDrxRef, s.cfg.FC.DRX_REF),
        (.fcCcaTx, s.cfg.FC.CCA_TX), (.fcTxW4r, s.cfg.FC.TX_W4R), (.fcDtxW4r, s.cfg.FC.DTX_W4R),
        (.fcDtxTsW4r, s.cfg.FC.DTX_TS_W4R), (.fcDtxRsW4r, s.cfg.FC.DTX_RS_W4R), (.fcDtxRefW4r, s.cfg.FC.DTX_REF_W4R),
        (.fcCcaTxW4r, s.cfg.FC.CCA_TX_W4R), (.fcDbToggle, s.cfg.FC.DB_TOGGLE), (.fcSemaReq, s.cfg.FC.SEMA_REQ),
        (.fcSemaRel, s.cfg.FC.SEMA_REL), (.fcSemaForce, s.cfg.FC.SEMA_FORCE),
        (.fcSoftResetSem, s.cfg.FC.SOFT_RESET_SEM), (.fcSoftResetNoSem, s.cfg.FC.SOFT_RESET_NO_SEM),
        (.fcEnterSleep, s.cfg.FC.ENTER_SLEEP), (.fcReserved12, 0x12#5), (.fcReserved17, 0x17#5),
        (.fcReserved1B, 0x1B#5), (.fcReserved1C, 0x1C#5), (.fcReserved1D, 0x1D#5), (.fcReserved1E, 0x1E#5),
        (.fcReserved1F, 0x1F#5)],
      SendsOnce p.1 s [0x81#8 ||| p.2.setWidth 8 <<< 1] []) ∧
    ∀ code, SendsOnce (.busFast code) s [0x81#8 ||| code.setWidth 8 <<< 1] []

/-- 30_encoding.md R94 to R97, run as single emissions of the codec (the model's reading of the table's frame rows: log 6):
each write row is one `BusWrite`, each read row one checked or exempt read, and a bad length (`len` is a `Bits16`) meets
the protocol error. -/
def Obligations.BusFrameRowsRun : Prop :=
  ∀ (s : State) (file : File) (sub : Sub) (len : Half) (body : List Byte), Undisturbed s →
    (1 ≤ body.length → body.length < s.cfg.MAX_LEN → body.length < 0x10000 →
      SendsOnce (.busWrShort file body) s [0x80#8 ||| file.setWidth 8 <<< 1] body ∧
      SendsOnce (.busWrExt file sub body) s (hdrExt true file sub 0) body) ∧
    (∀ a o, SendsOnce (.busMod8 file sub a o) s (headerOf .mod8 file sub) [a, o]) ∧
    (∀ a o, SendsOnce (.busMod16 file sub a o) s (headerOf .mod16 file sub) (le16 a ++ le16 o)) ∧
    (∀ a o, SendsOnce (.busMod32 file sub a o) s (headerOf .mod32 file sub) (le32 a ++ le32 o)) ∧
    (1 ≤ len.toNat → len.toNat < s.cfg.MAX_LEN → NoAlarm s →
      RunsTo (.busRdShort file len) s
        (Whole.fetchHdr [0x00#8 ||| file.setWidth 8 <<< 1] (frameAddr file 0 ≠ s.cfg.REG.CRC_ECHO) len.toNat
          (fun d => .ret (.ok (.bytes d))) s) ∧
      RunsTo (.busRdExt file sub len) s
        (Whole.fetchHdr (hdrExt false file sub 0) (frameAddr file sub ≠ s.cfg.REG.CRC_ECHO) len.toNat
          (fun d => .ret (.ok (.bytes d))) s)) ∧
    (len = 0 ∨ s.cfg.MAX_LEN ≤ len.toNat → ProtocolError (.busRdShort file len) s ∧ ProtocolError (.busRdExt file sub len) s) ∧
    (body = [] ∨ s.cfg.MAX_LEN ≤ body.length ∨ 0x10000 ≤ body.length →
      ProtocolError (.busWrShort file body) s ∧ ProtocolError (.busWrExt file sub body) s)

/-! ## Critical sections, TX/RX sequencer, double buffer -/

/-- 46_context_ops.md R361: `irq_src_modify` is one `modify32` between `IrqSaveDisable` and `IrqRestore`, with
`seq.irq_masked` true in between; the mask is restored before the answer, also on `BusError`. -/
def Obligations.IrqSrcModifyIsOneCriticalSection : Prop :=
  ∀ (s : State) (and or : Word), Undisturbed s →
    let hdr := accessHdr .mod32 s.cfg.REG.IRQ_EN_LO 0
    RunsTo (.irqSrcModify and or) s (Whole.guarded hdr (le32 and ++ le32 or) s) ∧
    (∃ t u, exec (.irqSrcModify and or) s = .next t ∧ t.seq.irqMasked = true ∧ t.env.chip = s.env.chip ∧
      t.trace = .irqSaveDisable s.env.platMask :: s.trace ∧ step t = .next u ∧ u.seq.irqMasked = true) ∧
    (Whole.guarded hdr (le32 and ++ le32 or) s).2.seq.irqMasked = false ∧
    (Whole.guarded hdr (le32 and ++ le32 or) s).2.env.platMask = s.env.platMask

/-- 43_trx_sequencer.md R242 to R248: `start_tx` for every valid mode is its pseudocode, and every other mode answers
`Err(InvalidArgument)` with no traffic; when no alarm can be raised (`on_spi_read_crc_error` absent, or a CRC mode without
read checks). -/
def Obligations.StartTxFollowsPseudocode : Prop :=
  (∀ (s : State) (flv : Flavour) (w4r : Bool), Undisturbed s → NoAlarm s →
    RunsTo (.startTx (modeByte flv w4r)) s (Whole.startTx s.cfg flv w4r s)) ∧
  ∀ (s : State) (mode : Byte), Ready s → (∀ flv w4r, mode ≠ modeByte flv w4r) →
    AnswersOnly (.startTx mode) s (.err .invalidArgument)

/-- 43_trx_sequencer.md R251 to R256: the same for `start_rx`; `Cca` is no flavour of a receive. -/
def Obligations.StartRxFollowsPseudocode : Prop :=
  (∀ (s : State) (flv : Flavour) (iol : Bool), flv ≠ .cca → Undisturbed s → NoAlarm s →
    RunsTo (.startRx (modeByte flv iol)) s (Whole.startRx s.cfg flv iol s)) ∧
  ∀ (s : State) (mode : Byte), Ready s → (∀ flv iol, flv ≠ .cca → mode ≠ modeByte flv iol) →
    AnswersOnly (.startRx mode) s (.err .invalidArgument)

/-- 43_trx_sequencer.md R260 to R263: `force_trx_off`, when no alarm can be raised. -/
def Obligations.ForceTrxOffFollowsPseudocode : Prop :=
  ∀ s, Undisturbed s → NoAlarm s →
    RunsTo .forceTrxOff s (Whole.forceTrxOff s.cfg s)

/-- 43_trx_sequencer.md R247, R255, R256: with CRC mode `Off`, a delayed start whose status byte has the warning bit sends
the off command and answers `Late`; a receive re-issues `RX` unless `IdleOnLate`. -/
def Obligations.LateStartsAreCancelled : Prop :=
  ∀ (s : State) (flv : Flavour) (opt : Bool) (b : Byte) (rest : List Reply), Undisturbed s → s.ctx.crcMode = .off →
    flv = .delayed ∨ flv = .dlyRef → b &&& s.cfg.M.HPDWARN.extractLsb' 24 8 ≠ 0 →
    let rd := Event.busRead (accessHdr .read s.cfg.REG.STATUS_LO 3) 1 (some [b])
    let fast (code : File) := Event.busWrite [0x81#8 ||| code.setWidth 8 <<< 1] [] none true
    (s.env.replies = .chip :: .data [b] :: .chip :: rest →
      ∃ u, RunsTo (.startTx (modeByte flv opt)) s (.err .late, u) ∧
        u.trace = fast s.cfg.FC.TXRXOFF :: rd :: fast (txcmd s.cfg.FC flv opt) :: s.trace) ∧
    (s.env.replies = .chip :: .chip :: .data [b] :: .chip :: .chip :: rest →
      ∃ u, RunsTo (.startRx (modeByte flv opt)) s (.err .late, u) ∧
        u.trace = (if opt then [] else [fast s.cfg.FC.RX]) ++
          (if s.cfg.RX_LATE_ISSUES_OFF then [fast s.cfg.FC.TXRXOFF] else []) ++
          rd :: fast (rxcmd s.cfg.FC flv) ::
          .busWrite (accessHdr .write s.cfg.REG.PLL_COMMON 0) (le16 s.cfg.PLL_COMMON_DEFAULT) none true :: s.trace)

/-- 44_dblbuf.md R280 to R288: the three double-buffer operations are their pseudocode, and `signal_buffer_free` with
`ctx.dbl = Off` answers `Err(InvalidArgument)` and emits nothing. -/
def Obligations.DoubleBufferFollowsPseudocode : Prop :=
  (∀ s, Undisturbed s →
    (∀ auto, RunsTo (.dblEnable auto) s (Whole.dblEnable s.cfg auto s)) ∧
    RunsTo .dblDisable s (Whole.dblDisable s.cfg s) ∧
    (s.ctx.dbl ≠ .off → RunsTo .signalBufferFree s (Whole.free s.cfg (.ret (.ok .unit)) s))) ∧
  ∀ s, Ready s → s.ctx.dbl = .off → AnswersOnly .signalBufferFree s (.err .invalidArgument)

/-- 44_dblbuf.md R289: after an enable, frees alternate between the two buffers, starting with `Buffer0` to `Buffer1`, as
long as the bus does not fail. -/
def Obligations.BufferFreeAlternates : Prop :=
  ∀ (s : State) (auto : Bool) (rest : List Reply), Undisturbed s →
    s.env.replies = .chip :: .chip :: .chip :: .chip :: .chip :: .chip :: rest →
    ∃ t0 t1 t2, RunsTo (.dblEnable auto) s (.ok .unit, t0) ∧ t0.ctx.dbl = .buffer0 ∧
      RunsTo .signalBufferFree t0 (.ok .unit, t1) ∧ t1.ctx.dbl = .buffer1 ∧
      RunsTo .signalBufferFree t1 (.ok .unit, t2) ∧ t2.ctx.dbl = .buffer0

/-! ## The classifier pass -/

/-- 45_event_classifier.md R300: a requested pass, with every callback absent, is the pseudocode of R300. -/
def Obligations.PassFollowsPseudocode : Prop :=
  ∀ s, Undisturbed s → s.ctx.cb = 0 → s.seq.inPass = false → hasPass s.stack = false → inCallback s.stack = false →
    let y := Whole.pass s.cfg { s with seq := { s.seq with inPass := true }, evt := State.reset.evt }
    RunsTo .isrPass s (y.1, { y.2 with seq := { y.2.seq with inPass := false }, served := topIsTask s.stack })

/-- 60_exceptions.md R383, R384: a pass that a boundary starts, with every callback absent, is the pseudocode of R300 run to
its end, normal or by `BusError`: then `seq.in_pass` is clear, the continuation of the foreground stands as it was with its
next action due (R429; log 37), and nothing is answered to anybody. -/
def Obligations.IrqPassRunsAndReturns : Prop :=
  ∀ (s : State) (b : Boundary), s.cfg.wf = true → Ready s → s.sched = [b] → b.start = true → b.power = false →
    (tick s).env.irq = true → s.ctx.cb = 0 → s.seq.inPass = false → s.seq.irqMasked = false → hasPass s.stack = false →
    s.served = false → (∀ f below, s.stack ≠ .handler f :: below) →
    let y := Whole.pass s.cfg { tick s with seq := { s.seq with inPass := true }, evt := State.reset.evt }
    y.2.stack = s.stack ∧
    ∃ k, Sys2Proof.core.run k s =
      .next { y.2 with seq := { y.2.seq with inPass := false }, served := topIsTask s.stack }

/-- 60_exceptions.md R389, R390, 70_reset_and_hazards.md R435: a pass is not re-entrant, and no callback starts one. (That a
pass is still running after an `init` inside it has cleared `seq.in_pass`: log 38; that the refusal from a callback outside
a pass is this answer: log 31.) -/
def Obligations.IsrPassRefusedInsidePassAndCallback : Prop :=
  ∀ s, Ready s → s.seq.inPass = true ∨ hasPass s.stack = true ∨ inCallback s.stack = true →
    AnswersOnly .isrPass s (.err .invalidArgument)

/-- 45_event_classifier.md R300, R302, 10_state.md R35: a pass visits its points in one fixed order, each at most once, and
after the capture the snapshot of the fast status and of the low status word is never replaced. -/
def Obligations.PassVisitsPointsInOrder : Prop :=
  ∀ (p : PassPt) (v : Snap) (r : ActResult) (s s' : State) (n : Point),
    passResume p v r s = (s', .goto n) →
    ∃ q w, n = .pass q w ∧ passRank p < passRank q ∧
      (p ≠ .capFstat → w.fstat = v.fstat) ∧
      (p ≠ .capFstat → p ≠ .capStatus → p ≠ .capSub → w.st = v.st)

/-- 45_event_classifier.md R312: in groups 3 and 4 the callback comes right before the clear; in groups 2 and 5 to 8 every
way to the callback goes through the clear, with double-buffering active through the sub-register clear (5) or the toggle
and the flip (6, 7) as well. -/
def Obligations.ClearOrderOfGroups : Prop :=
  (∀ (v w : Snap) (q : PassPt) (r : ActResult) (s s' : State),
    (passResume .g3Cb v r s = (s', .goto (.pass q w)) → q = .g3Clr) ∧
    (passResume .g4Cb v r s = (s', .goto (.pass q w)) → q = .g4Clr)) ∧
  ∀ (p : PassPt) (v w : Snap) (r : ActResult) (s s' : State),
    (passResume p v r s = (s', .goto (.pass .g2aCb w)) → p = .g2aHi) ∧
    (passResume p v r s = (s', .goto (.pass .g2aHi w)) → p = .g2aLo) ∧
    (passResume p v r s = (s', .goto (.pass .g2bCb w)) → p = .g2bHi) ∧
    (passResume p v r s = (s', .goto (.pass .g5Ok w)) ∨ passResume p v r s = (s', .goto (.pass .g5Err w)) →
      p = .g5Sub ∨ (p = .g5Clr ∧ s.ctx.dbl = .off)) ∧
    (passResume p v r s = (s', .goto (.pass .g5Sub w)) → p = .g5Clr) ∧
    (passResume p v r s = (s', .goto (.pass .g6Cb w)) → p = .g6Flip ∨ (p = .g6Clr ∧ s.ctx.dbl = .off)) ∧
    (passResume p v r s = (s', .goto (.pass .g6Flip w)) → p = .g6Toggle) ∧
    (passResume p v r s = (s', .goto (.pass .g6Toggle w)) → p = .g6Clr) ∧
    (passResume p v r s = (s', .goto (.pass .g7Cb w)) → p = .g7Flip ∨ (p = .g7Clr ∧ s.ctx.dbl = .off)) ∧
    (passResume p v r s = (s', .goto (.pass .g7Flip w)) → p = .g7Toggle) ∧
    (passResume p v r s = (s', .goto (.pass .g7Toggle w)) → p = .g7Clr) ∧
    (passResume p v r s = (s', .goto (.pass .g8Cb w)) → p = .g8Clr)

/-- 45_event_classifier.md R324, R325: after the clear writes of group 5, a length of zero without the no-data flag is
dispatched as a PHY-header error on `on_rx_error`, everything else as `on_rx_ok`. -/
def Obligations.ZeroLengthIsPhyHeaderError : Prop :=
  ∀ (s : State) (o : Owner) (v : Snap) (below : List Entry) (f : CallbackId), Undisturbed s →
    s.stack = .task { owner := o, pt := .pass .g5Clr v, phase := .ready } :: below → s.ctx.dbl = .off →
    s.ctx.cb = 0xFF →
    f = (if s.evt.datalen = 0 ∧ s.evt.flags.noData = false then .onRxError else .onRxOk) →
    (busWrite (accessHdr .write s.cfg.REG.STATUS_LO 0) (le32 v.clr) s).1 = true →
    ∃ t u, step s = .next t ∧ step t = .next u ∧
      u.evt = (if s.evt.datalen = 0 ∧ s.evt.flags.noData = false then
        { s.evt with flags := { s.evt.flags with phrErr := true } } else s.evt) ∧
      u.trace.head? = some (.callback f u.evt s.ctx) ∧ (∃ w, u.stack = .handler f :: w :: below) ∧ u.ctx = s.ctx

/-- 45_event_classifier.md R334, 60_exceptions.md R390: at a callback of a pass, a present callback leaves with the record
and the context and its handler runs; an absent one is skipped; and when a handler returns, whatever callbacks are present
by then, the pass goes on to the place an absent callback goes on to. -/
def Obligations.CallbackRunsNestedAndReturns : Prop :=
  ∀ (s : State) (o : Owner) (p : PassPt) (v : Snap) (below : List Entry) (f : CallbackId) (inputs : List Input),
    Undisturbed s → s.stack = .task { owner := o, pt := .pass p v, phase := .ready } :: below →
    passAction s.cfg s.ctx p v = .callback f →
    (s.ctx.has f = true →
      step s = .next
        { s with
          stack := .handler f :: .task { owner := o, pt := .pass p v, phase := .held [] } :: below
          trace := .callback f s.evt s.ctx :: s.trace }) ∧
    (s.ctx.has f = false →
      ∃ t, step s = .next t ∧
        ∀ cb : Byte,
          step { s with
            ctx := { s.ctx with cb }
            stack := .handler f :: .task { owner := o, pt := .pass p v, phase := .held [] } :: below
            inputs := .ret :: inputs } = .next { t with ctx := { t.ctx with cb }, inputs })

/-- 45_event_classifier.md R335: a `BusError` from a transaction of a pass ends it: `seq.in_pass` is cleared, what is below
goes on, `rec` and `ctx` stay as they are, and a requested pass answers `Err(BusError)`. -/
def Obligations.BusErrorEndsPass : Prop :=
  ∀ (s : State) (o : Owner) (p : PassPt) (v : Snap) (below : List Entry) (reached : Bool) (rest : List Reply),
    Undisturbed s → o ≠ .cmd → s.stack = .task { owner := o, pt := .pass p v, phase := .ready } :: below →
    s.env.replies = .fail reached :: rest →
    (∀ f, passAction s.cfg s.ctx p v ≠ .callback f) → passAction s.cfg s.ctx p v ≠ .silent →
    ∃ t e, step s = .next t ∧ t.stack = below ∧ t.seq = { s.seq with inPass := false } ∧ t.evt = s.evt ∧ t.ctx = s.ctx ∧
      e.isBus = true ∧
      t.trace = (if o = .passCmd then [.answer (.err .busError)] else []) ++ e :: s.trace

/-! ## Interrupt and interleaving -/

/-- 60_exceptions.md R381, R389, R390, 70_reset_and_hazards.md R429: a step that sets `seq.in_pass`, or that puts a pass on
the continuation stack, does so with the context live, no pass running and no halt, and only if the request `isr_pass` was
taken outside every callback, or the environment started the pass at this boundary with the IRQ level high, outside a
critical section, and with no action of an interrupted operation due (log 37; "no pass running" also of the stack: log 38). -/
def Obligations.PassStartsOnlyWhenAllowed : Prop :=
  ∀ s t, step s = .next t →
    (s.seq.inPass = false ∧ t.seq.inPass = true) ∨ passCount s.stack < passCount t.stack →
    s.ctx.live = true ∧ s.seq.inPass = false ∧ passCount s.stack = 0 ∧ s.seq.halted = false ∧
    ((fetches s .isrPass ∧ inCallback s.stack = false) ∨
      ((boundary s).start = true ∧ (tick s).env.irq = true ∧ s.seq.irqMasked = false ∧ s.served = false))

/-- 60_exceptions.md R383, 45_event_classifier.md R301: a pass started at a boundary first sets `seq.in_pass` and clears
the record, its first transaction is the read of the fast status, and the foreground's continuation stays as it is. -/
def Obligations.PassEntrySequence : Prop :=
  ∀ (s : State), s.cfg.wf = true → Ready s → (boundary s).power = false → (boundary s).start = true →
    (tick s).env.irq = true → s.seq.inPass = false → s.seq.irqMasked = false → hasPass s.stack = false →
    s.served = false → (∀ f below, s.stack ≠ .handler f :: below) →
    ∃ t d, step s = .next t ∧ t.evt = State.reset.evt ∧ t.ctx = s.ctx ∧ t.inputs = s.inputs ∧
      t.trace = .busRead (accessHdr .read s.cfg.REG.FSTAT 0) 1 d :: s.trace ∧
      (d = none → t.stack = s.stack ∧ t.seq.inPass = false) ∧
      (d ≠ none → t.seq.inPass = true ∧
        ∃ x, t.stack = .task x :: s.stack ∧ x.owner = .passIrq ∧ ∃ p v, x.pt = .pass p v)

/-- 60_exceptions.md R383, R388: a step never touches what lies below the operation in progress: the entry on top is
replaced, removed or covered, and everything under it stays. -/
def Obligations.LowerContinuationsUntouched : Prop :=
  ∀ s t, step s = .next t → (boundary s).power = false →
    (∀ x below, s.stack = .task x :: below → ∃ w, t.stack = w ++ below) ∧
    (∀ f x below, s.stack = .handler f :: .task x :: below → ∃ w, t.stack = w ++ below)

/-- 10_state.md R36, 20_memory.md R74: one step makes at most one bus transaction, and sends at most two messages. -/
def Obligations.OneTransactionPerStep : Prop :=
  ∀ s t, step s = .next t →
    ∃ es, t.trace = es ++ s.trace ∧ es.length ≤ 2 ∧ (es.filter Event.isBus).length ≤ 1

/-- 10_state.md R31: only a pass writes the event record, apart from `init`, `deinit` and the power cycle: the step takes
`isr_pass` outside every callback, starts a pass at its boundary, runs an action of a pass, or takes the return of a
handler into one. -/
def Obligations.RecordWriters : Prop :=
  ∀ s t, step s = .next t → (boundary s).power = false → t.evt ≠ s.evt →
    fetches s .init ∨ fetches s .deinit ∨ (fetches s .isrPass ∧ inCallback s.stack = false) ∨
    ((boundary s).start = true ∧ passMayStart (tick s) = true) ∨
    (∃ o p v ph below, s.stack = .task { owner := o, pt := .pass p v, phase := ph } :: below) ∨
    ∃ f o p v ph below rest, s.stack = .handler f :: .task { owner := o, pt := .pass p v, phase := ph } :: below ∧
      s.inputs = .ret :: rest

/-- 00_scope.md R10: the configuration is constant during a run. -/
def Obligations.ConfigurationConstant : Prop :=
  ∀ k s t, Sys2Proof.core.run k s = .next t → State.cfg t = State.cfg s

/-- A step runs the instruction its next input decodes to, when nothing is scheduled, nothing is halted and no operation
is in progress above it; with no input the block waits (70_reset_and_hazards.md R411). -/
def Obligations.StepRunsDecodedInstruction : Prop :=
  ∀ s, s.cfg.wf = true → s.seq.halted = false → s.sched = [] → (∀ x below, s.stack ≠ .task x :: below) →
    (∀ i inp rest, s.inputs = inp :: rest → decode s.cfg inp = some (.instr i) →
      step s = exec i { s with inputs := rest }) ∧
    (s.inputs = [] → step s = .next s)

/-! ## The chip -/

/-- 20_memory.md R80, R82: a write that reaches the chip stores its bytes, clearing the bits they name in a status
register, and leaves every other byte alone; one that does not reach it changes nothing. Writes: the accessors,
`transact`, and the two write frames (log 6); the chip expects what is sent (R99; else: CrcModeMismatchOnChip). -/
def Obligations.WritesStoreTheirBytes : Prop :=
  ∀ (s t : State) (i : Instr) (file : File) (sub : Sub) (bytes : List Byte), s.cfg.wf = true → Ready s →
    CrcAgree s → memWf s.env.chip.mem = true →
    (∃ addr offset, file = fileOf (combined addr offset) ∧ sub = subOf (combined addr offset) ∧
      ((∃ v, i = .write8 addr offset v ∧ bytes = [v]) ∨ (∃ v, i = .write16 addr offset v ∧ bytes = le16 v) ∨
        (∃ v, i = .write32 addr offset v ∧ bytes = le32 v) ∨
        (i = .transact addr offset (BitVec.ofNat 16 bytes.length) 0x8000 false bytes ∧ lenWf s.cfg bytes.length = true))) ∨
      (((i = .busWrShort file bytes ∧ sub = 0) ∨ i = .busWrExt file sub bytes) ∧ lenWf s.cfg bytes.length = true) →
    exec i s = .next t →
    (∀ a, a ∉ cellKeys file sub bytes.length → readByte t.env.chip.mem a = readByte s.env.chip.mem a) ∧
    (∀ n, n < bytes.length →
      let a := cellKey file (sub.toNat + n)
      readByte t.env.chip.mem a =
        if reachesChip 0 s.env then
          (if isW1c s.cfg a then readByte s.env.chip.mem a &&& ~~~(bytes.getD n 0) else bytes.getD n 0)
        else readByte s.env.chip.mem a)

/-- 41_accessors.md R179: a modify that reaches the chip leaves `(old & and) | or` in every byte it addresses, and every
other byte alone. Modifies: the accessors, `transact`, and the modify frames (log 6); the chip expects what is sent (R99). -/
def Obligations.ModifiesAndThenOr : Prop :=
  ∀ (s t : State) (i : Instr) (file : File) (sub : Sub) (ands ors : List Byte), s.cfg.wf = true → Ready s →
    CrcAgree s → memWf s.env.chip.mem = true →
    (∃ addr offset, file = fileOf (combined addr offset) ∧ sub = subOf (combined addr offset) ∧
      ((∃ a o, i = .modify8 addr offset a o ∧ ands = [a] ∧ ors = [o]) ∨
        (∃ a o, i = .modify16 addr offset a o ∧ ands = le16 a ∧ ors = le16 o) ∨
        (∃ a o, i = .modify32 addr offset a o ∧ ands = le32 a ∧ ors = le32 o) ∨
        (i = .transact addr offset 2 0x8001 false (ands ++ ors) ∧ ands.length = 1 ∧ ors.length = 1 ∧ 2 < s.cfg.MAX_LEN) ∨
        (i = .transact addr offset 4 0x8002 false (ands ++ ors) ∧ ands.length = 2 ∧ ors.length = 2 ∧ 4 < s.cfg.MAX_LEN) ∨
        (i = .transact addr offset 8 0x8003 false (ands ++ ors) ∧ ands.length = 4 ∧ ors.length = 4 ∧ 8 < s.cfg.MAX_LEN))) ∨
      (∃ a o, i = .busMod8 file sub a o ∧ ands = [a] ∧ ors = [o]) ∨
      (∃ a o, i = .busMod16 file sub a o ∧ ands = le16 a ∧ ors = le16 o) ∨
      (∃ a o, i = .busMod32 file sub a o ∧ ands = le32 a ∧ ors = le32 o) →
    exec i s = .next t →
    (∀ a, a ∉ cellKeys file sub ands.length → readByte t.env.chip.mem a = readByte s.env.chip.mem a) ∧
    (∀ n, n < ands.length →
      let a := cellKey file (sub.toNat + n)
      readByte t.env.chip.mem a =
        if reachesChip 0 s.env then readByte s.env.chip.mem a &&& ands.getD n 0 ||| ors.getD n 0
        else readByte s.env.chip.mem a)

/-- 20_memory.md R81, R82, 70_reset_and_hazards.md R431: reads and fast commands, and every operation that makes no
transaction, leave every byte of the chip's registers alone in the step that takes them; but that a fast command without
the trailer the chip expects is flagged in the low status word. -/
def Obligations.NonStoringFormsLeaveMemory : Prop :=
  ∀ (s t : State) (i : Instr),
    (match i with
      | .busWrShort .. | .busWrExt .. | .busMod8 .. | .busMod16 .. | .busMod32 .. | .write8 .. | .write16 .. | .write32 ..
      | .modify8 .. | .modify16 .. | .modify32 .. | .startRx _ | .dblEnable _ | .dblDisable => False
      | .transact _ _ _ mode fast _ => fast = true ∨ mode = 0x0000#16
      | _ => True) →
    exec i s = .next t → ∀ a, CrcAgree s ∨ a ∉ accessKeys s.cfg.REG.STATUS_LO 0 4 →
    readByte t.env.chip.mem a = readByte s.env.chip.mem a

/-- 43_trx_sequencer.md R243, R253, R260, 44_dblbuf.md R280, R284, R286, 46_context_ops.md R361, 45_event_classifier.md
R300: the operations of several actions, run to their ends, store only to the registers their pseudocode names; the chip
expects what is sent (R99), and no alarm and no callback comes in between. -/
def Obligations.OperationsStoreOnlyTheirRegisters : Prop :=
  ∀ (s : State) (flv : Flavour) (opt : Bool) (and or : Word) (a : Nat), Undisturbed s → CrcAgree s →
    let c := s.cfg
    let keeps (i : Instr) (y : Result × State) :=
      RunsTo i s y ∧ readByte y.2.env.chip.mem a = readByte s.env.chip.mem a
    (NoAlarm s → a ∉ accessKeys c.REG.DX_TIME 0 4 →
      keeps (.startTx (modeByte flv opt)) (Whole.startTx c flv opt s) ∧
      (flv ≠ .cca → a ∉ accessKeys c.REG.PLL_COMMON 0 2 →
        keeps (.startRx (modeByte flv opt)) (Whole.startRx c flv opt s))) ∧
    (NoAlarm s → keeps .forceTrxOff (Whole.forceTrxOff c s)) ∧
    (s.ctx.dbl ≠ .off → keeps .signalBufferFree (Whole.free c (.ret (.ok .unit)) s)) ∧
    (a ∉ accessKeys c.REG.SYS_CFG 0 4 →
      keeps .dblDisable (Whole.dblDisable c s) ∧
      (a ∉ accessKeys c.REG.IND_ADDR 0 4 → a ∉ accessKeys c.REG.IND_OFFSET 0 4 →
        a ∉ accessKeys c.REG.DIAG_CFG c.DIAG_BYTE_OFF 1 → keeps (.dblEnable opt) (Whole.dblEnable c opt s))) ∧
    (a ∉ accessKeys c.REG.IRQ_EN_LO 0 4 →
      keeps (.irqSrcModify and or)
        (Whole.guarded (accessHdr .mod32 c.REG.IRQ_EN_LO 0) (le32 and ++ le32 or) s)) ∧
    (s.ctx.cb = 0 → s.seq.inPass = false → hasPass s.stack = false → inCallback s.stack = false →
      a ∉ accessKeys c.REG.STATUS_LO 0 4 → a ∉ accessKeys c.REG.STATUS_HI 0 (hiLen c) →
      a ∉ accessKeys c.REG.RDB_STATUS 0 1 → a ∉ accessKeys c.REG.DSS_STAT 0 1 → a ∉ accessKeys c.REG.PLL_COMMON 0 2 →
      let y := Whole.pass c { s with seq := { s.seq with inPass := true }, evt := State.reset.evt }
      keeps .isrPass (y.1, { y.2 with seq := { y.2.seq with inPass := false }, served := topIsTask s.stack }))

/-- 70_reset_and_hazards.md R431: while `ctx.crc_mode` and the chip's CRC configuration differ, a write that reaches the
chip either carries a trailer that is stored as data, or lacks the trailer the chip expects, and a frame whose last byte
is not by chance the CRC of what precedes it is flagged as SPI-CRC error; and so is every fast command. (That the chip's
CRC configuration is a state of its own that only the environment moves: log 36.) -/
def Obligations.CrcModeMismatchOnChip : Prop :=
  ∀ (s t : State) (addr : Word) (offset : Half), s.cfg.wf = true → Ready s → memWf s.env.chip.mem = true →
    reachesChip 0 s.env = true →
    let flagged (t : State) := chipStatusLo s.cfg t.env.chip &&& s.cfg.M.SPICRCE = s.cfg.M.SPICRCE
    (∀ (i : Instr) (bytes : List Byte),
      (∃ v, i = .write8 addr offset v ∧ bytes = [v]) ∨ (∃ v, i = .write16 addr offset v ∧ bytes = le16 v) ∨
        (∃ v, i = .write32 addr offset v ∧ bytes = le32 v) ∨
        (i = .transact addr offset (BitVec.ofNat 16 bytes.length) 0x8000 false bytes ∧
          lenWf s.cfg bytes.length = true) →
      exec i s = .next t →
      let hdr := accessHdr .write addr offset
      let file := fileOf (combined addr offset)
      let sub := subOf (combined addr offset)
      (s.ctx.crcMode ≠ .off → s.env.chip.crcOn = false →
        let stored := bytes ++ [crc8 s.cfg (hdr ++ bytes)]
        (∀ a, a ∉ cellKeys file sub stored.length → readByte t.env.chip.mem a = readByte s.env.chip.mem a) ∧
        (∀ n, n < stored.length →
          let a := cellKey file (sub.toNat + n)
          readByte t.env.chip.mem a =
            if isW1c s.cfg a then readByte s.env.chip.mem a &&& ~~~(stored.getD n 0) else stored.getD n 0)) ∧
      (s.ctx.crcMode = .off → s.env.chip.crcOn = true →
        crc8 s.cfg (hdr ++ bytes.dropLast) ≠ bytes.getLastD 0 → flagged t)) ∧
    (∀ (i : Instr) (k : Kind) (masks : List Byte),
      (∃ and or, i = .modify8 addr offset and or ∧ k = .mod8 ∧ masks = [and, or]) ∨
        (∃ and or, i = .modify16 addr offset and or ∧ k = .mod16 ∧ masks = le16 and ++ le16 or) ∨
        (∃ and or, i = .modify32 addr offset and or ∧ k = .mod32 ∧ masks = le32 and ++ le32 or) →
      exec i s = .next t → s.ctx.crcMode = .off → s.env.chip.crcOn = true →
      crc8 s.cfg (accessHdr k addr offset ++ masks.dropLast) ≠ masks.getLastD 0 → flagged t) ∧
    (addr.toNat < 32 → exec (.fastcmd addr) s = .next t → s.ctx.crcMode = .off → s.env.chip.crcOn = true → flagged t)

/-- 20_memory.md R75, 43_trx_sequencer.md R240, 70_reset_and_hazards.md R414, R426, R431: at a boundary the chip may by itself
enter any TX/RX state, move its buffer pointer, its CRC configuration, its echo register and the semaphore, and change any
byte of its registers; nothing of the block changes. -/
def Obligations.ChipMovesByItself : Prop :=
  ∀ (s : State) (rest : List Boundary) (trx : TrxState) (hwbuf : HwBuf) (crcOn : Bool) (echo : Byte) (sem : SemOwner)
    (k : Nat) (v : Byte), k < spaceSize →
    ∃ b : Boundary, b.start = false ∧ b.power = false ∧
      let t := tick { s with sched := b :: rest }
      t.env.chip = { s.env.chip with mem := writeByte s.env.chip.mem k v, trx, hwbuf, crcOn, echo, sem } ∧
      t = { s with sched := rest, env := t.env } ∧ t.env.replies = s.env.replies ∧ t.env.platMask = s.env.platMask

/-- 20_memory.md R81: a read that reaches the chip leaves the CRC over its header and the chip's bytes in the echo
register, unless it reads that register, whose first byte is then the echo. -/
def Obligations.ReadLeavesItsCrcInEcho : Prop :=
  ∀ (c : Cfg) (t : Nat) (file : File) (sub : Sub) (n : Nat) (x : Chip), 1 ≤ n →
    let y := chipTake c t (headerOf .read file sub) n x
    (file = fileOf c.REG.CRC_ECHO ∧ sub = subOf c.REG.CRC_ECHO → y.1.echo = x.echo ∧ y.2.head? = some x.echo) ∧
    (¬(file = fileOf c.REG.CRC_ECHO ∧ sub = subOf c.REG.CRC_ECHO) →
      y.1.echo = crc8 c (headerOf .read file sub ++ y.2)) ∧
    y.2.length = n ∧ y.1 = { x with echo := y.1.echo }

/-- 20_memory.md R82: what a fast command does on the reference responder, with the trailer it expects. -/
def Obligations.FastCommandOnChip : Prop :=
  ∀ (c : Cfg) (t : Nat) (code : File) (x : Chip), c.wf = true →
    let y := chipTake c t (frameBytes c [0x81#8 ||| code.setWidth 8 <<< 1] [] x.crcOn) 0 x
    y.1.mem = x.mem ∧ y.1.echo = x.echo ∧ y.1.log = x.log ++ [code] ∧
    (code = c.FC.TXRXOFF → y.1.trx = .idle) ∧
    (code ∈ [c.FC.TX, c.FC.DTX, c.FC.DTX_TS, c.FC.DTX_RS, c.FC.DTX_REF, c.FC.CCA_TX, c.FC.TX_W4R, c.FC.DTX_W4R,
      c.FC.DTX_TS_W4R, c.FC.DTX_RS_W4R, c.FC.DTX_REF_W4R, c.FC.CCA_TX_W4R] → y.1.trx = .transmitting) ∧
    (code ∈ [c.FC.RX, c.FC.DRX, c.FC.DRX_TS, c.FC.DRX_RS, c.FC.DRX_REF] → y.1.trx = .receiving) ∧
    (code ∈ [c.FC.DB_TOGGLE, c.FC.SEMA_REQ, c.FC.SEMA_REL, c.FC.SEMA_FORCE, c.FC.SOFT_RESET_SEM,
      c.FC.SOFT_RESET_NO_SEM, c.FC.ENTER_SLEEP] → y.1.trx = x.trx) ∧
    (y.1.hwbuf = x.hwbuf ↔ code ≠ c.FC.DB_TOGGLE)

/-! ## The invariant -/

/-- The invariant holds at reset. -/
def Obligations.InvariantAtReset : Prop :=
  Invariant State.reset

/-- Every step keeps the invariant: canonical memory, the shape of the continuation stack, `seq.irq_masked` exactly inside
a critical section with the platform's mask closed, `seq.in_pass` only during a pass, never two passes at once, an action
due only of an operation in progress, the halt only under its parameter, and the width of `rec.status_hi` (10_state.md R30,
R38, 43_trx_sequencer.md R263, 46_context_ops.md R361, 60_exceptions.md R389, 70_reset_and_hazards.md R429, R437). The model's
choices in it: that an action is due of an interrupted operation as it stands here (log 37), that there are no two passes
also after an `init` or `deinit` inside one (log 38), and that the platform leaves its mask closed inside a critical
section (log 39). -/
def Obligations.InvariantKeptByEveryStep : Prop :=
  ∀ s t, Invariant s → step s = .next t → Invariant t
end

