-- ==== Sys2Proof/Laws/Frames.lean ====
section
/-! SUPPORT. The frame decoder on the headers the encoder builds (30_encoding.md R93 to R97, R105), and byte order. -/

namespace Sys2Proof.Laws

/-! ## Byte order -/

theorem unLE16_le16 (v : Half) : unLE16 (le16 v) = v := by
  simp only [unLE16, le16, byteAt, List.getD_cons_zero, List.getD_cons_succ]
  ext i hi
  simp
  interval_cases i <;> simp

theorem unLE32_le32 (v : Word) : unLE32 (le32 v) = v := by
  simp only [unLE32, le32, byteAt, List.getD_cons_zero, List.getD_cons_succ]
  ext i hi
  simp
  interval_cases i <;> simp

/-! ## Header bytes -/

theorem short_write (w : Bool) (f : File) : (writeBit w ||| f.setWidth 8 <<< 1).getLsbD 7 = w := by
  revert w f; decide +kernel

theorem short_long (w : Bool) (f : File) : (writeBit w ||| f.setWidth 8 <<< 1).getLsbD 6 = false := by
  revert w f; decide +kernel

theorem short_fast (w : Bool) (f : File) : (writeBit w ||| f.setWidth 8 <<< 1).getLsbD 0 = false := by
  revert w f; decide +kernel

theorem short_file (w : Bool) (f : File) : (writeBit w ||| f.setWidth 8 <<< 1).extractLsb' 1 5 = f := by
  revert w f; decide +kernel

theorem ext_write (w : Bool) (f : File) (b : BitVec 1) :
    (writeBit w ||| 0x40#8 ||| f.setWidth 8 <<< 1 ||| b.setWidth 8).getLsbD 7 = w := by
  revert w f b; decide +kernel

theorem ext_long (w : Bool) (f : File) (b : BitVec 1) :
    (writeBit w ||| 0x40#8 ||| f.setWidth 8 <<< 1 ||| b.setWidth 8).getLsbD 6 = true := by
  revert w f b; decide +kernel

theorem ext_file (w : Bool) (f : File) (b : BitVec 1) :
    (writeBit w ||| 0x40#8 ||| f.setWidth 8 <<< 1 ||| b.setWidth 8).extractLsb' 1 5 = f := by
  revert w f b; decide +kernel

theorem ext_top (w : Bool) (f : File) (b : BitVec 1) :
    (writeBit w ||| 0x40#8 ||| f.setWidth 8 <<< 1 ||| b.setWidth 8).extractLsb' 0 1 = b := by
  revert w f b; decide +kernel

theorem ext_mod (s : Sub) (m : BitVec 2) :
    ((s.extractLsb' 0 6).setWidth 8 <<< 2 ||| m.setWidth 8).extractLsb' 0 2 = m := by
  revert s m; decide +kernel

theorem ext_sub (s : Sub) (m : BitVec 2) :
    (s.extractLsb' 6 1).setWidth 7 <<< 6 |||
      (((s.extractLsb' 0 6).setWidth 8 <<< 2 ||| m.setWidth 8).extractLsb' 2 6).setWidth 7 = s := by
  revert s m; decide +kernel

theorem fast_bits (f : File) :
    (0x81#8 ||| f.setWidth 8 <<< 1).getLsbD 6 = false ∧ (0x81#8 ||| f.setWidth 8 <<< 1).getLsbD 0 = true ∧
      (0x81#8 ||| f.setWidth 8 <<< 1).getLsbD 7 = true ∧ (0x81#8 ||| f.setWidth 8 <<< 1).extractLsb' 1 5 = f := by
  revert f; decide +kernel

theorem fastRead_bits (f : File) :
    (0x01#8 ||| f.setWidth 8 <<< 1).getLsbD 6 = false ∧ (0x01#8 ||| f.setWidth 8 <<< 1).getLsbD 0 = true ∧
      (0x01#8 ||| f.setWidth 8 <<< 1).getLsbD 7 = false ∧ (0x01#8 ||| f.setWidth 8 <<< 1).extractLsb' 1 5 = f := by
  revert f; decide +kernel

/-! ## The decoder on a built header -/

theorem decodeFrame_short (c : Cfg) (crcOn w : Bool) (f : File) (rest : List Byte) :
    decodeFrame c crcOn (hdrShort w f ++ rest) =
      decodeBody c crcOn (hdrShort w f ++ rest) (if w then .write else .read) false f 0 rest := by
  simp only [hdrShort, List.singleton_append, decodeFrame, short_write, short_long, short_fast, short_file]
  simp

theorem decodeFrame_ext (c : Cfg) (crcOn w : Bool) (f : File) (s : Sub) (m : BitVec 2) (rest : List Byte)
    (h : w = true ∨ m = 0) :
    decodeFrame c crcOn (hdrExt w f s m ++ rest) =
      decodeBody c crcOn (hdrExt w f s m ++ rest) (extKind w m) true f s rest := by
  simp only [hdrExt, List.cons_append, List.nil_append, decodeFrame, ext_write, ext_long, ext_file, ext_top, ext_mod,
    ext_sub]
  rcases h with rfl | rfl <;> simp

theorem decodeFrame_ext_invalid (c : Cfg) (crcOn : Bool) (f : File) (s : Sub) (m : BitVec 2) (rest : List Byte)
    (h : m ≠ 0) :
    decodeFrame c crcOn (hdrExt false f s m ++ rest) = .invalid (.readWithModifyWidth f s m) := by
  simp only [hdrExt, List.cons_append, List.nil_append, decodeFrame, ext_write, ext_long, ext_file, ext_top, ext_mod,
    ext_sub]
  simp
  exact fun h0 => absurd h0 h

theorem decodeFrame_fast (c : Cfg) (crcOn : Bool) (f : File) (rest : List Byte) :
    decodeFrame c crcOn (hdrFast f ++ rest) = decodeBody c crcOn (hdrFast f ++ rest) .fast false f 0 rest := by
  obtain ⟨h6, h0, h7, hf⟩ := fast_bits f
  simp only [hdrFast, List.singleton_append, decodeFrame, h6, h0, h7, hf]
  simp

theorem decodeFrame_fastRead (c : Cfg) (crcOn : Bool) (f : File) :
    decodeFrame c crcOn [0x01#8 ||| f.setWidth 8 <<< 1] = .invalid (.fastWithReadBit f) := by
  obtain ⟨h6, h0, h7, hf⟩ := fastRead_bits f
  simp only [decodeFrame, h6, h0, h7, hf]
  simp

/-- Without a trailer the payload is what follows the header. -/
theorem decodeBody_plain (c : Cfg) (frame : List Byte) (kind : Kind) (ext : Bool) (file : File) (sub : Sub)
    (rest : List Byte) (hf : kind = .fast → rest = []) (hm : kind.isModify = true → rest.length = kind.modLen) :
    decodeBody c false frame kind ext file sub rest =
      .frame { kind, ext, file, sub, payload := rest, crcOk := true } := by
  cases kind <;> simp_all [decodeBody, Kind.isModify]

end Sys2Proof.Laws
end

