-- ==== Sys2Proof/Laws/Memory.lean ====
section
/-! SUPPORT. The chip's byte store: a read after a write, and that every operation keeps the canonical form. -/

namespace Sys2Proof.Laws

open Sys2Proof.Machine

/-! ## Read after write -/

theorem readByte_of_cellsFrom (m : Memory) (lo k : Nat) (hm : cellsFrom lo m = true) (hk : k < lo) :
    readByte m k = 0 := by
  induction m generalizing lo with
  | nil => rfl
  | cons p rest ih =>
    obtain ⟨a, b⟩ := p
    simp only [cellsFrom, Bool.and_eq_true, decide_eq_true_eq] at hm
    have hne : a ≠ k := by omega
    simp only [readByte, hne, if_false]
    exact ih (a + 1) hm.2 (by omega)

theorem readByte_writeByte_same (m : Memory) (lo k : Nat) (v : Byte) (hm : cellsFrom lo m = true) :
    readByte (writeByte m k v) k = v := by
  induction m generalizing lo with
  | nil => by_cases hv : v = 0#8 <;> simp [writeByte, readByte, hv]
  | cons p rest ih =>
    obtain ⟨a, b⟩ := p
    simp only [cellsFrom, Bool.and_eq_true, decide_eq_true_eq] at hm
    have hrest := ih (a + 1) hm.2
    by_cases hlt : k < a
    · by_cases hv : v = 0#8
      · have hne : a ≠ k := by omega
        simp only [writeByte, hlt, if_true, hv, readByte, hne, if_false]
        exact readByte_of_cellsFrom rest (a + 1) k hm.2 (by omega)
      · simp [writeByte, hlt, hv, readByte]
    · by_cases heq : k = a
      · subst heq
        by_cases hv : v = 0#8
        · simp only [writeByte, hlt, if_false, if_true, hv]
          exact readByte_of_cellsFrom rest (k + 1) k hm.2 (by omega)
        · simp [writeByte, hv, readByte]
      · have hne : a ≠ k := fun h => heq h.symm
        simp only [writeByte, hlt, heq, if_false, readByte, hne]
        exact hrest

theorem readByte_writeByte_other (m : Memory) (k j : Nat) (v : Byte) (h : j ≠ k) :
    readByte (writeByte m k v) j = readByte m j := by
  induction m with
  | nil => by_cases hv : v = 0#8 <;> simp [writeByte, readByte, hv, h.symm]
  | cons p rest ih =>
    obtain ⟨a, b⟩ := p
    by_cases hlt : k < a
    · by_cases hv : v = 0#8 <;> simp [writeByte, hlt, hv, readByte, h.symm]
    · by_cases heq : k = a
      · subst heq
        by_cases hv : v = 0#8 <;> simp [writeByte, hv, readByte, h.symm]
      · simp only [writeByte, hlt, heq, if_false, readByte, ih]

/-! ## Canonical form -/

theorem cellsFrom_mono (m : Memory) (lo lo' : Nat) (h : lo' ≤ lo) (hm : cellsFrom lo m = true) :
    cellsFrom lo' m = true := by
  cases m with
  | nil => rfl
  | cons p rest =>
    obtain ⟨a, b⟩ := p
    simp only [cellsFrom, Bool.and_eq_true, decide_eq_true_eq] at hm ⊢
    exact ⟨⟨⟨by omega, hm.1.1.2⟩, hm.1.2⟩, hm.2⟩

theorem writeByte_cellsFrom (m : Memory) (lo k : Nat) (v : Byte) (hm : cellsFrom lo m = true) (hlo : lo ≤ k)
    (hk : k < spaceSize) : cellsFrom lo (writeByte m k v) = true := by
  induction m generalizing lo with
  | nil => by_cases hv : v = 0#8 <;> simp [writeByte, cellsFrom, hv, hlo, hk]
  | cons p rest ih =>
    obtain ⟨a, b⟩ := p
    have hm' := hm
    simp only [cellsFrom, Bool.and_eq_true, decide_eq_true_eq] at hm
    by_cases hlt : k < a
    · by_cases hv : v = 0#8
      · simp only [writeByte, hlt, hv, if_true]
        exact hm'
      · simp only [writeByte, hlt, if_true, hv, if_false, cellsFrom, Bool.and_eq_true, decide_eq_true_eq]
        exact ⟨⟨⟨hlo, hk⟩, by simp [hv]⟩, ⟨⟨⟨by omega, hm.1.1.2⟩, hm.1.2⟩, hm.2⟩⟩
    · by_cases heq : k = a
      · subst heq
        by_cases hv : v = 0#8
        · simp only [writeByte, hlt, if_false, if_true, hv]
          exact cellsFrom_mono rest (k + 1) lo (by omega) hm.2
        · simp only [writeByte, hlt, if_false, if_true, hv, cellsFrom, Bool.and_eq_true, decide_eq_true_eq]
          exact ⟨⟨⟨hlo, hk⟩, by simp [hv]⟩, hm.2⟩
      · simp only [writeByte, hlt, heq, if_false, cellsFrom, Bool.and_eq_true, decide_eq_true_eq]
        exact ⟨hm.1, ih (a + 1) hm.2 (by omega)⟩

theorem writeByte_memWf (m : Memory) (k : Nat) (v : Byte) (hm : memWf m = true) (hk : k < spaceSize) :
    memWf (writeByte m k v) = true :=
  writeByte_cellsFrom m 0 k v hm (Nat.zero_le k) hk

theorem cellKey_lt (file : File) (off : Nat) : cellKey file off < spaceSize := by
  have := file.isLt
  simp only [cellKey, spaceSize]
  omega

theorem storeBytes_memWf (file : File) (d : List Byte) (m : Memory) (off : Nat) (hm : memWf m = true) :
    memWf (storeBytes m file off d) = true := by
  induction d generalizing m off with
  | nil => exact hm
  | cons b rest ih => exact ih _ _ (writeByte_memWf m _ b hm (cellKey_lt file off))

theorem pokeAll_memWf (l : List Host.Cell) (m : Memory) (hm : memWf m = true) : memWf (pokeAll m l) = true := by
  induction l generalizing m with
  | nil => exact hm
  | cons p rest ih =>
    obtain ⟨a, b⟩ := p
    exact ih _ (writeByte_memWf m _ b hm (Nat.mod_lt a (by decide)))

theorem reset_memWf : memWf State.reset.env.chip.mem = true := rfl

/-! ## Bytes of a multi-byte store -/

/-- The addresses of `n` bytes from offset `off` of a file. -/
def storedKeys (file : File) (off n : Nat) : List Nat :=
  (List.range n).map fun i => cellKey file (off + i)

theorem readByte_storeBytes_other (file : File) (d : List Byte) (m : Memory) (off k : Nat)
    (h : ∀ i, i < d.length → k ≠ cellKey file (off + i)) : readByte (storeBytes m file off d) k = readByte m k := by
  induction d generalizing m off with
  | nil => rfl
  | cons b rest ih =>
    rw [storeBytes, ih]
    · exact readByte_writeByte_other m _ k b (by simpa using h 0 (by simp))
    · intro i hi
      have := h (i + 1) (by simpa using hi)
      rwa [Nat.add_assoc, Nat.add_comm 1 i]

theorem readByte_storeBytes_same (file : File) (d : List Byte) (m : Memory) (off i : Nat) (hm : memWf m = true)
    (hi : i < d.length) (hd : off + d.length ≤ 0x10000) :
    readByte (storeBytes m file off d) (cellKey file (off + i)) = d.getD i 0 := by
  induction d generalizing m off i with
  | nil => simp at hi
  | cons b rest ih =>
    simp only [List.length_cons] at hi hd
    cases i with
    | zero =>
      rw [storeBytes, readByte_storeBytes_other]
      · simpa using readByte_writeByte_same m 0 _ b hm
      · intro j hj
        simp only [cellKey]
        omega
    | succ j =>
      have := ih (writeByte m (cellKey file off) b) (off + 1) j (writeByte_memWf m _ b hm (cellKey_lt file off))
        (by omega) (by omega)
      rw [storeBytes, show off + (j + 1) = off + 1 + j by omega, this]
      simp

end Sys2Proof.Laws
end

