-- ==== Sys2Proof/Laws/State.lean ====
section
/-! SUPPORT. What each update of the state does to each field: one lemma per field per update. -/

namespace Sys2Proof.Laws

open Sys2Proof.Machine

@[simp] theorem emit_cfg (e : Event) (s : State) : (emit e s).cfg = s.cfg := rfl
@[simp] theorem emit_ctx (e : Event) (s : State) : (emit e s).ctx = s.ctx := rfl
@[simp] theorem emit_evt (e : Event) (s : State) : (emit e s).evt = s.evt := rfl
@[simp] theorem emit_seq (e : Event) (s : State) : (emit e s).seq = s.seq := rfl
@[simp] theorem emit_stack (e : Event) (s : State) : (emit e s).stack = s.stack := rfl
@[simp] theorem emit_served (e : Event) (s : State) : (emit e s).served = s.served := rfl
@[simp] theorem emit_env (e : Event) (s : State) : (emit e s).env = s.env := rfl
@[simp] theorem emit_inputs (e : Event) (s : State) : (emit e s).inputs = s.inputs := rfl
@[simp] theorem emit_sched (e : Event) (s : State) : (emit e s).sched = s.sched := rfl
@[simp] theorem emit_trace (e : Event) (s : State) : (emit e s).trace = e :: s.trace := rfl

@[simp] theorem answer_cfg (r : Result) (s : State) : (answer r s).cfg = s.cfg := rfl
@[simp] theorem answer_ctx (r : Result) (s : State) : (answer r s).ctx = s.ctx := rfl
@[simp] theorem answer_evt (r : Result) (s : State) : (answer r s).evt = s.evt := rfl
@[simp] theorem answer_seq (r : Result) (s : State) : (answer r s).seq = s.seq := rfl
@[simp] theorem answer_stack (r : Result) (s : State) : (answer r s).stack = s.stack := rfl
@[simp] theorem answer_served (r : Result) (s : State) : (answer r s).served = s.served := rfl
@[simp] theorem answer_env (r : Result) (s : State) : (answer r s).env = s.env := rfl
@[simp] theorem answer_inputs (r : Result) (s : State) : (answer r s).inputs = s.inputs := rfl
@[simp] theorem answer_sched (r : Result) (s : State) : (answer r s).sched = s.sched := rfl
@[simp] theorem answer_trace (r : Result) (s : State) : (answer r s).trace = .answer r :: s.trace := rfl

@[simp] theorem setEvt_cfg (r : EventRec) (s : State) : (setEvt r s).cfg = s.cfg := rfl
@[simp] theorem setEvt_ctx (r : EventRec) (s : State) : (setEvt r s).ctx = s.ctx := rfl
@[simp] theorem setEvt_evt (r : EventRec) (s : State) : (setEvt r s).evt = r := rfl
@[simp] theorem setEvt_seq (r : EventRec) (s : State) : (setEvt r s).seq = s.seq := rfl
@[simp] theorem setEvt_stack (r : EventRec) (s : State) : (setEvt r s).stack = s.stack := rfl
@[simp] theorem setEvt_served (r : EventRec) (s : State) : (setEvt r s).served = s.served := rfl
@[simp] theorem setEvt_env (r : EventRec) (s : State) : (setEvt r s).env = s.env := rfl
@[simp] theorem setEvt_inputs (r : EventRec) (s : State) : (setEvt r s).inputs = s.inputs := rfl
@[simp] theorem setEvt_sched (r : EventRec) (s : State) : (setEvt r s).sched = s.sched := rfl
@[simp] theorem setEvt_trace (r : EventRec) (s : State) : (setEvt r s).trace = s.trace := rfl

@[simp] theorem setDbl_cfg (d : Dbl) (s : State) : (setDbl d s).cfg = s.cfg := rfl
@[simp] theorem setDbl_ctx (d : Dbl) (s : State) : (setDbl d s).ctx = { s.ctx with dbl := d } := rfl
@[simp] theorem setDbl_evt (d : Dbl) (s : State) : (setDbl d s).evt = s.evt := rfl
@[simp] theorem setDbl_seq (d : Dbl) (s : State) : (setDbl d s).seq = s.seq := rfl
@[simp] theorem setDbl_stack (d : Dbl) (s : State) : (setDbl d s).stack = s.stack := rfl
@[simp] theorem setDbl_served (d : Dbl) (s : State) : (setDbl d s).served = s.served := rfl
@[simp] theorem setDbl_env (d : Dbl) (s : State) : (setDbl d s).env = s.env := rfl
@[simp] theorem setDbl_inputs (d : Dbl) (s : State) : (setDbl d s).inputs = s.inputs := rfl
@[simp] theorem setDbl_sched (d : Dbl) (s : State) : (setDbl d s).sched = s.sched := rfl
@[simp] theorem setDbl_trace (d : Dbl) (s : State) : (setDbl d s).trace = s.trace := rfl

@[simp] theorem flipDbl_cfg (s : State) : (flipDbl s).cfg = s.cfg := rfl
@[simp] theorem flipDbl_ctx (s : State) : (flipDbl s).ctx = { s.ctx with dbl := s.ctx.dbl.other } := rfl
@[simp] theorem flipDbl_evt (s : State) : (flipDbl s).evt = s.evt := rfl
@[simp] theorem flipDbl_seq (s : State) : (flipDbl s).seq = s.seq := rfl
@[simp] theorem flipDbl_stack (s : State) : (flipDbl s).stack = s.stack := rfl
@[simp] theorem flipDbl_served (s : State) : (flipDbl s).served = s.served := rfl
@[simp] theorem flipDbl_env (s : State) : (flipDbl s).env = s.env := rfl
@[simp] theorem flipDbl_inputs (s : State) : (flipDbl s).inputs = s.inputs := rfl
@[simp] theorem flipDbl_sched (s : State) : (flipDbl s).sched = s.sched := rfl
@[simp] theorem flipDbl_trace (s : State) : (flipDbl s).trace = s.trace := rfl

@[simp] theorem park_cfg (t : Task) (s : State) : (park t s).cfg = s.cfg := rfl
@[simp] theorem park_ctx (t : Task) (s : State) : (park t s).ctx = s.ctx := rfl
@[simp] theorem park_evt (t : Task) (s : State) : (park t s).evt = s.evt := rfl
@[simp] theorem park_seq (t : Task) (s : State) : (park t s).seq = s.seq := rfl
@[simp] theorem park_stack (t : Task) (s : State) : (park t s).stack = .task t :: s.stack := rfl
@[simp] theorem park_served (t : Task) (s : State) : (park t s).served = s.served := rfl
@[simp] theorem park_env (t : Task) (s : State) : (park t s).env = s.env := rfl
@[simp] theorem park_inputs (t : Task) (s : State) : (park t s).inputs = s.inputs := rfl
@[simp] theorem park_sched (t : Task) (s : State) : (park t s).sched = s.sched := rfl
@[simp] theorem park_trace (t : Task) (s : State) : (park t s).trace = s.trace := rfl

@[simp] theorem callHost_cfg (f : CallbackId) (t : Task) (s : State) : (callHost f t s).cfg = s.cfg := rfl
@[simp] theorem callHost_ctx (f : CallbackId) (t : Task) (s : State) : (callHost f t s).ctx = s.ctx := rfl
@[simp] theorem callHost_evt (f : CallbackId) (t : Task) (s : State) : (callHost f t s).evt = s.evt := rfl
@[simp] theorem callHost_seq (f : CallbackId) (t : Task) (s : State) : (callHost f t s).seq = s.seq := rfl
@[simp] theorem callHost_stack (f : CallbackId) (t : Task) (s : State) : (callHost f t s).stack = .handler f :: .task t :: s.stack := rfl
@[simp] theorem callHost_served (f : CallbackId) (t : Task) (s : State) : (callHost f t s).served = s.served := rfl
@[simp] theorem callHost_env (f : CallbackId) (t : Task) (s : State) : (callHost f t s).env = s.env := rfl
@[simp] theorem callHost_inputs (f : CallbackId) (t : Task) (s : State) : (callHost f t s).inputs = s.inputs := rfl
@[simp] theorem callHost_sched (f : CallbackId) (t : Task) (s : State) : (callHost f t s).sched = s.sched := rfl
@[simp] theorem callHost_trace (f : CallbackId) (t : Task) (s : State) : (callHost f t s).trace = .callback f s.evt s.ctx :: s.trace := rfl

@[simp] theorem enterPass_cfg (s : State) : (enterPass s).cfg = s.cfg := rfl
@[simp] theorem enterPass_ctx (s : State) : (enterPass s).ctx = s.ctx := rfl
@[simp] theorem enterPass_evt (s : State) : (enterPass s).evt = EventRec.zero := rfl
@[simp] theorem enterPass_seq (s : State) : (enterPass s).seq = { s.seq with inPass := true } := rfl
@[simp] theorem enterPass_stack (s : State) : (enterPass s).stack = s.stack := rfl
@[simp] theorem enterPass_served (s : State) : (enterPass s).served = s.served := rfl
@[simp] theorem enterPass_env (s : State) : (enterPass s).env = s.env := rfl
@[simp] theorem enterPass_inputs (s : State) : (enterPass s).inputs = s.inputs := rfl
@[simp] theorem enterPass_sched (s : State) : (enterPass s).sched = s.sched := rfl
@[simp] theorem enterPass_trace (s : State) : (enterPass s).trace = s.trace := rfl

@[simp] theorem leavePass_cfg (s : State) : (leavePass s).cfg = s.cfg := rfl
@[simp] theorem leavePass_ctx (s : State) : (leavePass s).ctx = s.ctx := rfl
@[simp] theorem leavePass_evt (s : State) : (leavePass s).evt = s.evt := rfl
@[simp] theorem leavePass_seq (s : State) : (leavePass s).seq = { s.seq with inPass := false } := rfl
@[simp] theorem leavePass_stack (s : State) : (leavePass s).stack = s.stack := rfl
@[simp] theorem leavePass_served (s : State) : (leavePass s).served = topIsTask s.stack := rfl
@[simp] theorem leavePass_env (s : State) : (leavePass s).env = s.env := rfl
@[simp] theorem leavePass_inputs (s : State) : (leavePass s).inputs = s.inputs := rfl
@[simp] theorem leavePass_sched (s : State) : (leavePass s).sched = s.sched := rfl
@[simp] theorem leavePass_trace (s : State) : (leavePass s).trace = s.trace := rfl

@[simp] theorem maskOff_cfg (s : State) : (maskOff s).cfg = s.cfg := rfl
@[simp] theorem maskOff_ctx (s : State) : (maskOff s).ctx = s.ctx := rfl
@[simp] theorem maskOff_evt (s : State) : (maskOff s).evt = s.evt := rfl
@[simp] theorem maskOff_seq (s : State) : (maskOff s).seq = { s.seq with irqMasked := true } := rfl
@[simp] theorem maskOff_stack (s : State) : (maskOff s).stack = s.stack := rfl
@[simp] theorem maskOff_served (s : State) : (maskOff s).served = s.served := rfl
@[simp] theorem maskOff_env (s : State) : (maskOff s).env = { s.env with platMask := true } := rfl
@[simp] theorem maskOff_inputs (s : State) : (maskOff s).inputs = s.inputs := rfl
@[simp] theorem maskOff_sched (s : State) : (maskOff s).sched = s.sched := rfl
@[simp] theorem maskOff_trace (s : State) : (maskOff s).trace = .irqSaveDisable s.env.platMask :: s.trace := rfl

@[simp] theorem maskOn_cfg (tok : Bool) (s : State) : (maskOn tok s).cfg = s.cfg := rfl
@[simp] theorem maskOn_ctx (tok : Bool) (s : State) : (maskOn tok s).ctx = s.ctx := rfl
@[simp] theorem maskOn_evt (tok : Bool) (s : State) : (maskOn tok s).evt = s.evt := rfl
@[simp] theorem maskOn_seq (tok : Bool) (s : State) : (maskOn tok s).seq = { s.seq with irqMasked := false } := rfl
@[simp] theorem maskOn_stack (tok : Bool) (s : State) : (maskOn tok s).stack = s.stack := rfl
@[simp] theorem maskOn_served (tok : Bool) (s : State) : (maskOn tok s).served = s.served := rfl
@[simp] theorem maskOn_env (tok : Bool) (s : State) : (maskOn tok s).env = { s.env with platMask := tok } := rfl
@[simp] theorem maskOn_inputs (tok : Bool) (s : State) : (maskOn tok s).inputs = s.inputs := rfl
@[simp] theorem maskOn_sched (tok : Bool) (s : State) : (maskOn tok s).sched = s.sched := rfl
@[simp] theorem maskOn_trace (tok : Bool) (s : State) : (maskOn tok s).trace = .irqRestore tok :: s.trace := rfl

@[simp] theorem powerCycle_cfg (s : State) : (powerCycle s).cfg = s.cfg := rfl
@[simp] theorem powerCycle_ctx (s : State) : (powerCycle s).ctx = Ctx.powerOn := rfl
@[simp] theorem powerCycle_evt (s : State) : (powerCycle s).evt = EventRec.zero := rfl
@[simp] theorem powerCycle_seq (s : State) : (powerCycle s).seq = Sequencer.powerOn := rfl
@[simp] theorem powerCycle_stack (s : State) : (powerCycle s).stack = [] := rfl
@[simp] theorem powerCycle_served (s : State) : (powerCycle s).served = false := rfl
@[simp] theorem powerCycle_env (s : State) : (powerCycle s).env = s.env := rfl
@[simp] theorem powerCycle_inputs (s : State) : (powerCycle s).inputs = s.inputs := rfl
@[simp] theorem powerCycle_sched (s : State) : (powerCycle s).sched = s.sched := rfl
@[simp] theorem powerCycle_trace (s : State) : (powerCycle s).trace = s.trace := rfl

/-! ## A boundary changes the schedule and the environment only -/

@[simp] theorem tick_cfg (s : State) : (tick s).cfg = s.cfg := by
  unfold tick; split <;> rfl

@[simp] theorem tick_ctx (s : State) : (tick s).ctx = s.ctx := by
  unfold tick; split <;> rfl

@[simp] theorem tick_evt (s : State) : (tick s).evt = s.evt := by
  unfold tick; split <;> rfl

@[simp] theorem tick_seq (s : State) : (tick s).seq = s.seq := by
  unfold tick; split <;> rfl

@[simp] theorem tick_stack (s : State) : (tick s).stack = s.stack := by
  unfold tick; split <;> rfl

@[simp] theorem tick_served (s : State) : (tick s).served = s.served := by
  unfold tick; split <;> rfl

@[simp] theorem tick_inputs (s : State) : (tick s).inputs = s.inputs := by
  unfold tick; split <;> rfl

@[simp] theorem tick_trace (s : State) : (tick s).trace = s.trace := by
  unfold tick; split <;> rfl

@[simp] theorem platformMoves_chip (b : Boundary) (m : Bool) (e : Env) : (platformMoves b m e).chip = e.chip := by
  unfold platformMoves; split <;> rfl

@[simp] theorem platformMoves_replies (b : Boundary) (m : Bool) (e : Env) :
    (platformMoves b m e).replies = e.replies := by
  unfold platformMoves; split <;> rfl

/-- A slot that leaves the platform's mask alone changes nothing. -/
@[simp] theorem platformMoves_none (b : Boundary) (m : Bool) (e : Env) (h : b.mask = none) : platformMoves b m e = e := by
  unfold platformMoves; split <;> simp [h]

/-- A critical section keeps the platform's mask. -/
@[simp] theorem platformMoves_inSection (b : Boundary) (e : Env) : platformMoves b true e = e := rfl

@[simp] theorem platformMoves_platMask (b : Boundary) (e : Env) :
    (platformMoves b false e).platMask = b.mask.getD e.platMask := rfl

@[simp] theorem tick_of_nil (s : State) (h : s.sched = []) : tick s = s := by
  simp [tick, h]

@[simp] theorem boundary_of_nil (s : State) (h : s.sched = []) : boundary s = {} := by
  simp [boundary, h]

theorem tick_cons (s : State) (b : Boundary) (rest : List Boundary) (h : s.sched = b :: rest) :
    tick s = { s with sched := rest, env := platformMoves b s.seq.irqMasked (chipEvents s.cfg b s.env) } := by
  simp [tick, h]

end Sys2Proof.Laws
end

