-- ==== Sys2Proof/Laws/Ops.lean ====
section
/-! SUPPORT. What the shared operations do, once each: the transport, the two bus primitives, the end of an action, one
action of a task, a request. -/

namespace Sys2Proof.Laws

open Sys2Proof.Machine

/-! ## The chip and the transport -/

theorem chipFrame_memWf (c : Cfg) (t : Nat) (hdr : List Byte) (f : Frame) (n : Nat) (x : Chip)
    (h : memWf x.mem = true) : memWf (chipFrame c t hdr f n x).1.mem = true := by
  unfold chipFrame
  split
  · unfold chipRead
    dsimp only
    split <;> exact h
  · exact storeBytes_memWf _ _ _ _ h
  · exact storeBytes_memWf _ _ _ _ h
  · exact storeBytes_memWf _ _ _ _ h
  · exact storeBytes_memWf _ _ _ _ h
  · exact h

theorem flagSpiCrc_memWf (c : Cfg) (x : Chip) (h : memWf x.mem = true) : memWf (flagSpiCrc c x).mem = true :=
  storeBytes_memWf _ _ _ _ h

theorem chipTake_memWf (c : Cfg) (t : Nat) (frame : List Byte) (n : Nat) (x : Chip)
    (h : memWf x.mem = true) : memWf (chipTake c t frame n x).1.mem = true := by
  unfold chipTake
  split
  · dsimp only
    split
    · exact flagSpiCrc_memWf c x h
    · exact h
  · dsimp only
    split
    · exact chipFrame_memWf c t frame _ n x h
    · exact flagSpiCrc_memWf c _ (chipFrame_memWf c t frame _ n x h)

@[simp] theorem flagSpiCrc_crcOn (c : Cfg) (x : Chip) : (flagSpiCrc c x).crcOn = x.crcOn := rfl

@[simp] theorem chipFrame_crcOn (c : Cfg) (t : Nat) (hdr : List Byte) (f : Frame) (n : Nat) (x : Chip) :
    (chipFrame c t hdr f n x).1.crcOn = x.crcOn := by
  unfold chipFrame
  split <;> try rfl
  unfold chipRead
  dsimp only
  split <;> rfl

/-- No frame changes the chip's CRC configuration. -/
@[simp] theorem chipTake_crcOn (c : Cfg) (t : Nat) (frame : List Byte) (n : Nat) (x : Chip) :
    (chipTake c t frame n x).1.crcOn = x.crcOn := by
  unfold chipTake
  split
  · dsimp only
    split <;> simp
  · dsimp only
    split <;> simp

@[simp] theorem senseIrq_chip (c : Cfg) (e : Env) : (senseIrq c e).chip = e.chip := by
  unfold senseIrq; split <;> rfl

@[simp] theorem senseIrq_platMask (c : Cfg) (e : Env) : (senseIrq c e).platMask = e.platMask := by
  unfold senseIrq; split <;> rfl

@[simp] theorem senseIrq_replies (c : Cfg) (e : Env) : (senseIrq c e).replies = e.replies := by
  unfold senseIrq; split <;> rfl

@[simp] theorem transfer_platMask (c : Cfg) (frame : List Byte) (n : Nat) (e : Env) :
    (transfer c frame n e).2.platMask = e.platMask := by
  unfold transfer
  dsimp only
  split
  · simp
  · simp
  · dsimp only
    split <;> simp

@[simp] theorem transfer_replies (c : Cfg) (frame : List Byte) (n : Nat) (e : Env) :
    (transfer c frame n e).2.replies = e.replies.tail := by
  unfold transfer
  dsimp only
  split
  · simp
  · simp
  · dsimp only
    split <;> simp

/-- The chip after a transaction: it took the frame, or it did not see it. -/
theorem transfer_chip (c : Cfg) (frame : List Byte) (n : Nat) (e : Env) :
    (transfer c frame n e).2.chip =
      (match nextReply n e with
       | .fail false => e.chip
       | .fail true | .chip | .data _ => (chipTake c e.txn frame n e.chip).1) := by
  unfold transfer
  cases nextReply n e with
  | chip => simp
  | data d => simp
  | fail r => cases r <;> simp

theorem transfer_memWf (c : Cfg) (frame : List Byte) (n : Nat) (e : Env)
    (h : memWf e.chip.mem = true) : memWf (transfer c frame n e).2.chip.mem = true := by
  rw [transfer_chip]
  split
  · exact h
  all_goals exact chipTake_memWf c _ frame n e.chip h

@[simp] theorem transfer_crcOn (c : Cfg) (frame : List Byte) (n : Nat) (e : Env) :
    (transfer c frame n e).2.chip.crcOn = e.chip.crcOn := by
  rw [transfer_chip]
  split <;> simp

/-- The bytes a transaction that succeeded gives are as many as were asked for. -/
theorem transfer_length (c : Cfg) (frame : List Byte) (n : Nat) (e : Env) (d : List Byte)
    (h : (transfer c frame n e).1 = some d) : d.length = n := by
  unfold transfer at h
  dsimp only at h
  split at h
  · simp only [Option.some.injEq] at h
    simp [← h, fitBytes]
  · simp only [Option.some.injEq] at h
    simp [← h, fitBytes]
  · exact absurd h (by simp)

theorem chipEvents_memWf (c : Cfg) (b : Boundary) (e : Env) (h : memWf e.chip.mem = true) :
    memWf (chipEvents c b e).chip.mem = true := by
  unfold chipEvents
  dsimp only
  split
  · simpa [chipMoves] using pokeAll_memWf b.pokes e.chip.mem h
  · simpa [chipMoves] using pokeAll_memWf b.pokes e.chip.mem h

@[simp] theorem chipEvents_platMask (c : Cfg) (b : Boundary) (e : Env) :
    (chipEvents c b e).platMask = e.platMask := by
  unfold chipEvents
  dsimp only
  split <;> simp

theorem tick_memWf (s : State) (h : memWf s.env.chip.mem = true) : memWf (tick s).env.chip.mem = true := by
  unfold tick
  split
  · exact h
  · simpa using chipEvents_memWf _ _ _ h

/-- The platform's mask moves at a boundary only outside a critical section. -/
theorem tick_platMask (s : State) (h : s.seq.irqMasked = true) : (tick s).env.platMask = s.env.platMask := by
  unfold tick
  split <;> simp [h]

/-! ## Bus primitives -/

/-- A write: whether it succeeded, one message, and the environment; nothing of the block changes. -/
theorem busWrite_eq (hdr body : List Byte) (s : State) :
    busWrite hdr body s =
      let y := transfer s.cfg (hdr ++ body ++ (trailer s hdr body).toList) 0 s.env
      (y.1.isSome, { s with env := y.2, trace := .busWrite hdr body (trailer s hdr body) y.1.isSome :: s.trace }) :=
  rfl

/-- A read: its bytes, one message, and the environment; nothing of the block changes. -/
theorem busRead_eq (hdr : List Byte) (n : Nat) (s : State) :
    busRead hdr n s =
      let y := transfer s.cfg hdr n s.env
      (y.1, { s with env := y.2, trace := .busRead hdr n y.1 :: s.trace }) :=
  rfl

@[simp] theorem busWrite_cfg (hdr body : List Byte) (s : State) : (busWrite hdr body s).2.cfg = s.cfg := rfl
@[simp] theorem busWrite_ctx (hdr body : List Byte) (s : State) : (busWrite hdr body s).2.ctx = s.ctx := rfl
@[simp] theorem busWrite_evt (hdr body : List Byte) (s : State) : (busWrite hdr body s).2.evt = s.evt := rfl
@[simp] theorem busWrite_seq (hdr body : List Byte) (s : State) : (busWrite hdr body s).2.seq = s.seq := rfl
@[simp] theorem busWrite_stack (hdr body : List Byte) (s : State) : (busWrite hdr body s).2.stack = s.stack := rfl
@[simp] theorem busWrite_served (hdr body : List Byte) (s : State) : (busWrite hdr body s).2.served = s.served := rfl
@[simp] theorem busWrite_inputs (hdr body : List Byte) (s : State) : (busWrite hdr body s).2.inputs = s.inputs := rfl
@[simp] theorem busWrite_sched (hdr body : List Byte) (s : State) : (busWrite hdr body s).2.sched = s.sched := rfl
@[simp] theorem busWrite_trace (hdr body : List Byte) (s : State) :
    (busWrite hdr body s).2.trace =
      .busWrite hdr body (trailer s hdr body) (busWrite hdr body s).1 :: s.trace := rfl
@[simp] theorem busWrite_platMask (hdr body : List Byte) (s : State) :
    (busWrite hdr body s).2.env.platMask = s.env.platMask := transfer_platMask ..
@[simp] theorem busWrite_crcOn (hdr body : List Byte) (s : State) :
    (busWrite hdr body s).2.env.chip.crcOn = s.env.chip.crcOn := transfer_crcOn ..

@[simp] theorem busRead_cfg (hdr : List Byte) (n : Nat) (s : State) : (busRead hdr n s).2.cfg = s.cfg := rfl
@[simp] theorem busRead_ctx (hdr : List Byte) (n : Nat) (s : State) : (busRead hdr n s).2.ctx = s.ctx := rfl
@[simp] theorem busRead_evt (hdr : List Byte) (n : Nat) (s : State) : (busRead hdr n s).2.evt = s.evt := rfl
@[simp] theorem busRead_seq (hdr : List Byte) (n : Nat) (s : State) : (busRead hdr n s).2.seq = s.seq := rfl
@[simp] theorem busRead_stack (hdr : List Byte) (n : Nat) (s : State) : (busRead hdr n s).2.stack = s.stack := rfl
@[simp] theorem busRead_served (hdr : List Byte) (n : Nat) (s : State) : (busRead hdr n s).2.served = s.served := rfl
@[simp] theorem busRead_inputs (hdr : List Byte) (n : Nat) (s : State) : (busRead hdr n s).2.inputs = s.inputs := rfl
@[simp] theorem busRead_sched (hdr : List Byte) (n : Nat) (s : State) : (busRead hdr n s).2.sched = s.sched := rfl
@[simp] theorem busRead_trace (hdr : List Byte) (n : Nat) (s : State) :
    (busRead hdr n s).2.trace = .busRead hdr n (busRead hdr n s).1 :: s.trace := rfl
@[simp] theorem busRead_platMask (hdr : List Byte) (n : Nat) (s : State) :
    (busRead hdr n s).2.env.platMask = s.env.platMask := transfer_platMask ..
@[simp] theorem busRead_crcOn (hdr : List Byte) (n : Nat) (s : State) :
    (busRead hdr n s).2.env.chip.crcOn = s.env.chip.crcOn := transfer_crcOn ..

/-! ## What follows an action -/

/-- Only `ctx.dbl` and the event record differ. -/
def OnlyRecord (s t : State) : Prop :=
  t = { s with ctx := { s.ctx with dbl := t.ctx.dbl }, evt := t.evt }

theorem OnlyRecord.refl (s : State) : OnlyRecord s s := rfl

theorem OnlyRecord.trans {s t u : State} (h : OnlyRecord s t) (k : OnlyRecord t u) : OnlyRecord s u := by
  unfold OnlyRecord at *
  rw [k, h]

theorem onlyRecord_setEvt (r : EventRec) (s : State) : OnlyRecord s (setEvt r s) := rfl

theorem onlyRecord_setDbl (d : Dbl) (s : State) : OnlyRecord s (setDbl d s) := rfl

theorem enterGroup8_only (v : Snap) (s : State) : OnlyRecord s (enterGroup8 v s).1 := rfl

theorem enterGroup7_only (v : Snap) (s : State) : OnlyRecord s (enterGroup7 v s).1 := by
  unfold enterGroup7; split <;> rfl

theorem enterGroup6_only (v : Snap) (s : State) : OnlyRecord s (enterGroup6 v s).1 := by
  unfold enterGroup6; split
  · rfl
  · exact enterGroup7_only v s

theorem dispatchRx_only (v : Snap) (s : State) : OnlyRecord s (dispatchRx v s).1 := by
  unfold dispatchRx; split <;> rfl

theorem enterGroup5_only (v : Snap) (s : State) : OnlyRecord s (enterGroup5 v s).1 := by
  unfold enterGroup5; split
  · dsimp only; split <;> rfl
  · exact enterGroup6_only v s

theorem enterBenign_only (v : Snap) (s : State) : OnlyRecord s (enterBenign v s).1 := by
  unfold enterBenign; split
  · rfl
  · exact enterGroup5_only _ s

theorem enterGroup4_only (v : Snap) (s : State) : OnlyRecord s (enterGroup4 v s).1 := by
  unfold enterGroup4; split
  · rfl
  · exact enterBenign_only v s

theorem enterGroup3_only (v : Snap) (s : State) : OnlyRecord s (enterGroup3 v s).1 := by
  unfold enterGroup3; split
  · rfl
  · exact enterGroup4_only v s

theorem enterGroup2b_only (v : Snap) (s : State) : OnlyRecord s (enterGroup2b v s).1 := by
  unfold enterGroup2b; split
  · rfl
  · exact enterGroup3_only v s

theorem enterGroup2a_only (v : Snap) (s : State) : OnlyRecord s (enterGroup2a v s).1 := by
  unfold enterGroup2a; split
  · rfl
  · exact enterGroup2b_only v s

theorem enterGroup2_only (v : Snap) (s : State) : OnlyRecord s (enterGroup2 v s).1 := by
  unfold enterGroup2; split
  · rfl
  · exact enterGroup3_only v s

theorem endCapture_only (v : Snap) (s : State) : OnlyRecord s (endCapture v s).1 :=
  (onlyRecord_setEvt _ s).trans (enterGroup2_only _ _)

theorem freeOr_only (q : PassPt) (v : Snap) (s : State) (after : State × Next) (h : OnlyRecord s after.1) :
    OnlyRecord s (freeOr q v s after).1 := by
  unfold freeOr; split
  · rfl
  · exact h

theorem passFollow_only (p : PassPt) (v : Snap) (d : List Byte) (s : State) :
    OnlyRecord s (passFollow p v d s).1 := by
  cases p <;> simp only [passFollow]
  case capStatus => split; · rfl
                    · exact endCapture_only _ s
  case capSub => exact endCapture_only _ s
  case g2Hi => exact (onlyRecord_setEvt _ s).trans (enterGroup2a_only _ _)
  case g2aCb => exact enterGroup2b_only v s
  case g2bCb => exact enterGroup3_only v s
  case g3Clr => exact enterGroup4_only v s
  case g4Clr => exact enterBenign_only v s
  case g5Benign => exact enterGroup5_only _ s
  case g5Clr => split; · rfl
                · exact dispatchRx_only v s
  case g5Sub => exact dispatchRx_only v s
  case g5Err => exact freeOr_only _ v s _ (enterGroup6_only _ s)
  case g5Ok => exact freeOr_only _ v s _ (enterGroup6_only _ s)
  case g5Flip => exact (onlyRecord_setDbl _ s).trans (enterGroup6_only _ _)
  case g6Clr => exact freeOr_only _ v s _ rfl
  case g6Cb => exact enterGroup7_only v s
  case g7Clr => exact freeOr_only _ v s _ rfl
  case g7Cb => exact enterGroup8_only v s
  all_goals rfl

theorem passResume_only (p : PassPt) (v : Snap) (r : ActResult) (s : State) :
    OnlyRecord s (passResume p v r s).1 := by
  unfold passResume; split
  · rfl
  · exact passFollow_only p v _ s

theorem dblResume_only (p : DblPt) (r : ActResult) (s : State) : OnlyRecord s (dblResume p r s).1 := by
  cases p <;> rfl

/-- What follows an action changes nothing but `ctx.dbl` and the event record. -/
theorem resumeAt_only (p : Point) (r : ActResult) (s : State) : OnlyRecord s (resumeAt p r s).1 := by
  cases p with
  | read => rfl
  | write => rfl
  | stateRead => rfl
  | trx => rfl
  | crit => rfl
  | dbl p => exact dblResume_only p r s
  | pass p v => exact passResume_only p v r s

/-- The end of an action: the task waits at its next point, or the operation ends. -/
theorem settle_cases (t : Task) (r : ActResult) (s : State) :
    (∃ p s', resumeAt t.pt r s = (s', .goto p) ∧ settle t r s = park { t with pt := p, phase := .ready } s') ∨
    ∃ res s', resumeAt t.pt r s = (s', .done res) ∧ settle t r s = finish t.owner res s' := by
  unfold settle
  rcases h : resumeAt t.pt r s with ⟨s', n⟩
  cases n with
  | goto p => exact .inl ⟨p, s', rfl, rfl⟩
  | done res => exact .inr ⟨res, s', rfl, rfl⟩

/-! ## One action of a task -/

/-- What one action can do: a task ends, waits, or calls a handler; over a state that differs in the environment, in
`seq.irq_masked`, and by at most one message of the action. -/
inductive ActionEffect (t : Task) (s : State) : State → Prop where
  /-- the action is over with the result `r` -/
  | settled (r : ActResult) (e : Env) (m : Bool) (es : List Event) (hes : es.length ≤ 1) :
      ActionEffect t s (settle t r { s with env := e, seq := { s.seq with irqMasked := m }, trace := es ++ s.trace })
  /-- a checked read waits for its echo, or for its alarm -/
  | waiting (ph : Phase) (e : Env) (es : List Event) (hes : es.length ≤ 1) (hph : ∀ d, ph ≠ .held d) :
      ActionEffect t s (park { t with phase := ph } { s with env := e, trace := es ++ s.trace })
  /-- a callback leaves -/
  | called (f : CallbackId) (d : List Byte) : ActionEffect t s (callHost f { t with phase := .held d } s)

theorem callbackAction_effect (t : Task) (f : CallbackId) (d : List Byte) (s : State) :
    ActionEffect t s (callbackAction t f d s) := by
  unfold callbackAction; split
  · exact .called f d
  · exact .settled (.data d) s.env s.seq.irqMasked [] (by simp)

theorem readAction_effect (t : Task) (hdr : List Byte) (checked : Bool) (n : Nat) (s : State) :
    ActionEffect t s (readAction t hdr checked n s) := by
  unfold readAction
  dsimp only
  split
  · exact .settled .failed _ s.seq.irqMasked [_] (by simp)
  · split
    · exact .waiting _ _ [_] (by simp) (by simp)
    · exact .settled _ _ s.seq.irqMasked [_] (by simp)

theorem echoAction_effect (t : Task) (localCrc : Byte) (d : List Byte) (s : State) :
    ActionEffect t s (echoAction t localCrc d s) := by
  unfold echoAction
  dsimp only
  split
  · exact .settled .failed _ s.seq.irqMasked [_] (by simp)
  · split
    · exact .waiting _ _ [_] (by simp) (by simp)
    · exact .settled _ _ s.seq.irqMasked [_] (by simp)

theorem perform_effect (t : Task) (a : Action) (s : State) : ActionEffect t s (perform t a s) := by
  cases a with
  | read hdr checked n => exact readAction_effect t hdr checked n s
  | write hdr body => exact .settled _ _ s.seq.irqMasked [_] (by simp)
  | callback f => exact callbackAction_effect t f [] s
  | silent => exact .settled .ok s.env s.seq.irqMasked [] (by simp)
  | maskOff => exact .settled _ _ true [_] (by simp)
  | maskOn tok => exact .settled _ _ false [_] (by simp)

theorem runTask_effect (t : Task) (s : State) : ActionEffect t s (runTask t s) := by
  unfold runTask; split
  · exact perform_effect t _ s
  · exact echoAction_effect t _ _ s
  · exact callbackAction_effect t _ _ s
  · exact .settled _ s.env s.seq.irqMasked [] (by simp)

/-! ## Requests -/

@[simp] theorem request_ready (s : State) (k : State → Host.Outcome State Fault Refusal)
    (hl : s.ctx.live = true) (hh : s.seq.halted = false) : request s k = k s := by
  simp [request, hl, hh]

@[simp] theorem request_dead (s : State) (k : State → Host.Outcome State Fault Refusal)
    (hl : s.ctx.live = false) (hh : s.seq.halted = false) :
    request s k = .next (answer (.err .invalidArgument) s) := by
  simp [request, hl, hh]

@[simp] theorem request_halted (s : State) (k : State → Host.Outcome State Fault Refusal)
    (hh : s.seq.halted = true) : request s k = .fault .halted := by
  simp [request, hh]

/-! ## Steps -/

/-- A step of an operation in progress, with nothing scheduled. -/
theorem step_task (s : State) (t : Task) (below : List Entry) (hw : s.cfg.wf = true) (hh : s.seq.halted = false)
    (hs : s.sched = []) (hst : s.stack = .task t :: below) :
    step s = .next (runTask t { s with stack := below, served := false }) := by
  simp [step, hw, hh, hs, advance, hst]

/-- A step with no operation in progress on top and nothing scheduled. -/
theorem step_fetch (s : State) (hw : s.cfg.wf = true) (hh : s.seq.halted = false) (hs : s.sched = [])
    (hst : ∀ t below, s.stack ≠ .task t :: below) : step s = fetch s := by
  simp only [step, hw, boundary_of_nil s hs, hh, tick_of_nil s hs, advance, Bool.false_and, Bool.false_eq_true, if_true,
    if_false]
  split
  · next t below h => exact absurd h (hst t below)
  · rfl
  · rfl

/-- Everything a step can be. -/
theorem step_cases (s t : State) (h : step s = .next t) :
    s.cfg.wf = true ∧
    (((boundary s).power = true ∧ t = powerCycle (tick s)) ∨
      ((boundary s).power = false ∧ s.seq.halted = false ∧
        (((boundary s).start = true ∧ passMayStart (tick s) = true ∧ t = startPass .passIrq (tick s)) ∨
          (∃ x below, s.stack = .task x :: below ∧ t = runTask x { tick s with stack := below, served := false }) ∨
          ((∀ x below, s.stack ≠ .task x :: below) ∧ fetch (tick s) = .next t)))) := by
  unfold step at h
  split at h
  · next hw =>
    refine ⟨hw, ?_⟩
    split at h
    · next hp =>
      simp only [Host.Outcome.next.injEq] at h
      exact .inl ⟨hp, h.symm⟩
    · next hp =>
      split at h
      · exact absurd h (by simp)
      · next hh =>
        refine .inr ⟨by simpa using hp, by simpa using hh, ?_⟩
        unfold advance at h
        split at h
        · next hb =>
          simp only [Bool.and_eq_true] at hb
          simp only [Host.Outcome.next.injEq] at h
          exact .inl ⟨hb.1, hb.2, h.symm⟩
        · split at h
          · next x below hst =>
            simp only [Host.Outcome.next.injEq] at h
            exact .inr (.inl ⟨x, below, by simpa using hst, h.symm⟩)
          · next f below hst =>
            refine .inr (.inr ⟨?_, h⟩)
            intro x b hx
            simp only [tick_stack] at hst
            rw [hst] at hx
            exact absurd hx (by simp)
          · next hst =>
            refine .inr (.inr ⟨?_, h⟩)
            intro x b hx
            simp only [tick_stack] at hst
            rw [hst] at hx
            exact absurd hx (by simp)
  · exact absurd h (by simp)

/-- Everything taking an input can be. -/
theorem fetch_cases (s t : State) (h : fetch s = .next t) :
    (s.inputs = [] ∧ t = s) ∨
    (∃ i inp rest, s.inputs = inp :: rest ∧ decode s.cfg inp = some (.instr i) ∧
      exec i { s with inputs := rest } = .next t) ∨
    (∃ rest f x below, s.inputs = .ret :: rest ∧ s.stack = .handler f :: .task x :: below ∧
      t = settle x (.data x.phase.heldData) { s with stack := below, inputs := rest }) := by
  unfold fetch at h
  split at h
  · next hi =>
    simp only [Host.Outcome.next.injEq] at h
    exact .inl ⟨hi, h.symm⟩
  · next inp rest hi =>
    split at h
    · next i hd => exact .inr (.inl ⟨i, inp, rest, hi, hd, h⟩)
    · exact absurd h (by simp)
    · next hd =>
      refine .inr (.inr ?_)
      have hret : inp = .ret := by
        cases inp <;> simp_all [decode]
      subst hret
      unfold returnFromHandler at h
      split at h
      · next f x below hst =>
        simp only [Host.Outcome.next.injEq] at h
        exact ⟨rest, f, x, below, hi, hst, h.symm⟩
      · exact absurd h (by simp)

end Sys2Proof.Laws
end

