-- ==== Sys2Proof/Laws/Chip.lean ====
section
/-! SUPPORT. What the frames of the codec do to the chip's byte store: a frame that reaches the chip decodes to what was
sent, a write and a modify store their bytes, and nothing else stores. -/

namespace Sys2Proof.Laws

open Sys2Proof.Machine

/-! ## The decoder on the codec's frames -/

/-- The header `hdr` announces the kind, file and sub-address given. -/
def Announces (c : Cfg) (hdr : List Byte) (kind : Kind) (ext : Bool) (file : File) (sub : Sub) : Prop :=
  ∀ crcOn rest, decodeFrame c crcOn (hdr ++ rest) = decodeBody c crcOn (hdr ++ rest) kind ext file sub rest

theorem announces_fast (c : Cfg) (code : File) : Announces c (hdrFast code) .fast false code 0 :=
  fun crcOn rest => decodeFrame_fast c crcOn code rest

theorem announces_short (c : Cfg) (w : Bool) (file : File) :
    Announces c (hdrShort w file) (if w then .write else .read) false file 0 :=
  fun crcOn rest => decodeFrame_short c crcOn w file rest

theorem announces_ext (c : Cfg) (w : Bool) (file : File) (sub : Sub) (m : BitVec 2) (h : w = true ∨ m = 0) :
    Announces c (hdrExt w file sub m) (extKind w m) true file sub :=
  fun crcOn rest => decodeFrame_ext c crcOn w file sub m rest h

/-- The header of an access announces it. -/
theorem announces_headerOf (c : Cfg) (k : Kind) (file : File) (sub : Sub) (hk : k ≠ .fast) :
    ∃ ext, Announces c (headerOf k file sub) k ext file sub := by
  have hext : ∀ w m, (w = true ∨ m = 0) → Announces c (hdrExt w file sub m) (extKind w m) true file sub :=
    fun w m => announces_ext c w file sub m
  by_cases hs : sub = 0
  · subst hs
    cases k with
    | fast => exact absurd rfl hk
    | read => exact ⟨false, announces_short c false file⟩
    | write => exact ⟨false, announces_short c true file⟩
    | mod8 => exact ⟨true, announces_ext c true file 0 1 (.inl rfl)⟩
    | mod16 => exact ⟨true, announces_ext c true file 0 2 (.inl rfl)⟩
    | mod32 => exact ⟨true, announces_ext c true file 0 3 (.inl rfl)⟩
  · have hx : headerOf k file sub = hdrExt k.isWrite file sub k.modBits := by
      cases k <;> simp_all [headerOf]
    rw [hx]
    refine ⟨true, ?_⟩
    cases k with
    | fast => exact absurd rfl hk
    | read => exact hext _ _ (.inr rfl)
    | _ => exact hext _ _ (.inl rfl)

/-- With its trailer a frame is read back whole, its CRC good. -/
theorem decodeBody_trailer (c : Cfg) (hdr payload : List Byte) (kind : Kind) (ext : Bool) (file : File) (sub : Sub)
    (hr : kind ≠ .read) (hf : kind = .fast → payload = []) (hm : kind.isModify = true → payload.length = kind.modLen) :
    decodeBody c true (hdr ++ (payload ++ [crc8 c (hdr ++ payload)])) kind ext file sub
        (payload ++ [crc8 c (hdr ++ payload)]) =
      .frame { kind, ext, file, sub, payload, crcOk := true } := by
  have h1 : (hdr ++ (payload ++ [crc8 c (hdr ++ payload)])).dropLast = hdr ++ payload := by
    rw [← List.append_assoc, List.dropLast_concat]
  have h2 : (hdr ++ (payload ++ [crc8 c (hdr ++ payload)])).getLastD 0 = crc8 c (hdr ++ payload) := by
    rw [← List.append_assoc, List.getLastD_concat]
  have h3 : (kind != .read) = true := by simpa using hr
  unfold decodeBody
  rw [h1, h2, List.dropLast_concat]
  have h4 : (payload ++ [crc8 c (hdr ++ payload)]).isEmpty = false := by simp
  have h5 : (kind == .fast && !payload.isEmpty) = false := by
    cases hk : kind == Kind.fast
    · rfl
    · simp [hf (by simpa using hk)]
  have h6 : (kind.isModify && payload.length != kind.modLen) = false := by
    cases hk : kind.isModify
    · rfl
    · simp [hm hk]
  simp [h3, h4, h5, h6]

/-- The frame of a write-class transaction, with or without its trailer, is read back whole by a chip that expects what
is sent (30_encoding.md R99). -/
theorem decodeFrame_sent (c : Cfg) (s : State) (hdr body : List Byte) (kind : Kind) (ext : Bool) (file : File) (sub : Sub)
    (hc : c = s.cfg) (hg : CrcAgree s) (ha : Announces c hdr kind ext file sub) (hr : kind ≠ .read) (hf : kind = .fast → body = [])
    (hm : kind.isModify = true → body.length = kind.modLen) :
    decodeFrame c s.env.chip.crcOn (hdr ++ body ++ (trailer s hdr body).toList) =
      .frame { kind, ext, file, sub, payload := body, crcOk := true } := by
  subst hc
  rw [List.append_assoc, ha, hg]
  unfold trailer
  by_cases ho : s.ctx.crcMode = .off
  · rw [if_pos ho, ho]
    simpa using decodeBody_plain s.cfg (hdr ++ body) kind ext file sub body hf hm
  · have hb : (s.ctx.crcMode != .off) = true := by simpa using ho
    rw [if_neg ho, hb]
    exact decodeBody_trailer s.cfg hdr body kind ext file sub hr hf hm

/-! ## The byte store after a transaction -/

/-- The byte store after a transaction whose frame reads back good. -/
theorem transfer_mem (c : Cfg) (frame : List Byte) (n : Nat) (e : Env) (f : Frame)
    (hd : decodeFrame c e.chip.crcOn frame = .frame f) (hok : f.crcOk = true) :
    (transfer c frame n e).2.chip.mem =
      if reachesChip n e then (chipFrame c e.txn frame f n e.chip).1.mem else e.chip.mem := by
  have ht : (chipTake c e.txn frame n e.chip).1 = (chipFrame c e.txn frame f n e.chip).1 := by
    simp [chipTake, hd, hok]
  rw [transfer_chip]
  unfold reachesChip
  split <;> simp_all

theorem reachesChip_zero (n : Nat) (e : Env) : reachesChip n e = reachesChip 0 e := by
  unfold reachesChip nextReply
  cases e.replies with
  | cons r rest => rfl
  | nil =>
    cases e.responder with
    | chipRef => rfl
    | oracle =>
      simp only [oracleReply]
      cases Config.oracleFails e.txn <;> rfl

/-- A write stores the values its bytes leave. -/
theorem busWrite_mem_write (hdr body : List Byte) (s : State) (hg : CrcAgree s) (ext : Bool) (file : File) (sub : Sub)
    (ha : Announces s.cfg hdr .write ext file sub) :
    (busWrite hdr body s).2.env.chip.mem =
      if reachesChip 0 s.env then
        storeBytes s.env.chip.mem file sub.toNat (writtenBytes s.cfg s.env.chip.mem file sub.toNat body)
      else s.env.chip.mem :=
  transfer_mem _ _ _ _ _
    (decodeFrame_sent s.cfg s hdr body .write ext file sub rfl hg ha (by simp) (by simp) (by simp [Kind.isModify])) rfl

/-- A modify stores the modified bytes. -/
theorem busWrite_mem_modify (hdr body : List Byte) (s : State) (hg : CrcAgree s) (k : Kind) (ext : Bool) (file : File) (sub : Sub)
    (ha : Announces s.cfg hdr k ext file sub) (hk : k.isModify = true) (hl : body.length = k.modLen) :
    (busWrite hdr body s).2.env.chip.mem =
      if reachesChip 0 s.env then
        storeBytes s.env.chip.mem file sub.toNat
          (modifiedBytes s.env.chip.mem file sub.toNat (body.take (k.modLen / 2)) (body.drop (k.modLen / 2)))
      else s.env.chip.mem := by
  have hd := decodeFrame_sent s.cfg s hdr body k ext file sub rfl hg ha (by rintro rfl; simp [Kind.isModify] at hk)
    (by rintro rfl; simp [Kind.isModify] at hk) (fun _ => hl)
  have ht := transfer_mem s.cfg _ 0 s.env _ hd rfl
  refine Eq.trans ht ?_
  cases k <;> first | rfl | simp [Kind.isModify] at hk

/-- A fast command stores nothing. -/
theorem busWrite_mem_fast (code : File) (s : State) (hg : CrcAgree s) :
    (busWrite (hdrFast code) [] s).2.env.chip.mem = s.env.chip.mem := by
  have hd := decodeFrame_sent s.cfg s (hdrFast code) [] .fast false code 0 rfl hg (announces_fast s.cfg code) (by simp)
    (by simp) (by simp [Kind.isModify])
  refine Eq.trans (transfer_mem s.cfg _ 0 s.env _ hd rfl) ?_
  split <;> rfl

/-- A read stores nothing. -/
theorem busRead_mem (hdr : List Byte) (n : Nat) (s : State) (ext : Bool) (file : File) (sub : Sub)
    (ha : Announces s.cfg hdr .read ext file sub) : (busRead hdr n s).2.env.chip.mem = s.env.chip.mem := by
  have hd : decodeFrame s.cfg s.env.chip.crcOn hdr =
      .frame { kind := .read, ext, file, sub, payload := [], crcOk := true } := by
    have := ha s.env.chip.crcOn []
    rw [List.append_nil] at this
    rw [this]
    simp [decodeBody, Kind.isModify]
  refine Eq.trans (transfer_mem s.cfg hdr n s.env _ hd rfl) ?_
  split
  · simp only [chipFrame, chipRead]
    split <;> rfl
  · rfl

/-! ## Which bytes a store leaves -/

@[simp] theorem writtenBytes_length (c : Cfg) (m : Memory) (file : File) (off : Nat) (d : List Byte) :
    (writtenBytes c m file off d).length = d.length := by
  induction d generalizing off with
  | nil => rfl
  | cons b rest ih => simp [writtenBytes, ih]

theorem writtenBytes_getD (c : Cfg) (m : Memory) (file : File) (off i : Nat) (d : List Byte) (hi : i < d.length) :
    (writtenBytes c m file off d).getD i 0 = writtenByte c m (cellKey file (off + i)) (d.getD i 0) := by
  induction d generalizing off i with
  | nil => simp at hi
  | cons b rest ih =>
    cases i with
    | zero => simp [writtenBytes]
    | succ j =>
      have := ih (off + 1) j (by simpa using hi)
      simpa [writtenBytes, Nat.add_assoc, Nat.add_comm 1 j] using this

@[simp] theorem modifiedBytes_length (m : Memory) (file : File) (off : Nat) (ands ors : List Byte)
    (h : ands.length = ors.length) : (modifiedBytes m file off ands ors).length = ands.length := by
  induction ands generalizing off ors with
  | nil => rfl
  | cons a as ih =>
    cases ors with
    | nil => simp at h
    | cons o os => simpa [modifiedBytes] using ih (off + 1) os (by simpa using h)

theorem modifiedBytes_getD (m : Memory) (file : File) (off i : Nat) (ands ors : List Byte)
    (h : ands.length = ors.length) (hi : i < ands.length) :
    (modifiedBytes m file off ands ors).getD i 0 =
      (readByte m (cellKey file (off + i)) &&& ands.getD i 0 ||| ors.getD i 0) := by
  induction ands generalizing off i ors with
  | nil => simp at hi
  | cons a as ih =>
    cases ors with
    | nil => simp at h
    | cons o os =>
      cases i with
      | zero => simp [modifiedBytes]
      | succ j =>
        have := ih (off + 1) j os (by simpa using h) (by simpa using hi)
        simpa [modifiedBytes, Nat.add_assoc, Nat.add_comm 1 j] using this

theorem not_mem_cellKeys {file : File} {sub : Sub} {n k : Nat} (h : k ∉ cellKeys file sub n) (i : Nat) (hi : i < n) :
    k ≠ cellKey file (sub.toNat + i) := by
  rintro rfl
  exact h (List.mem_map.2 ⟨i, by simpa using hi, rfl⟩)

end Sys2Proof.Laws
end

