-- ==== Sys2Proof/Laws/Exec.lean ====
section
/-! SUPPORT. Everything an instruction can do, once: it answers, writes the context, halts the block, starts a task of the
CMD port at one of a few points, or starts a pass. -/

namespace Sys2Proof.Laws

open Sys2Proof.Machine

/-- The context a setter leaves (46_context_ops.md R353 to R359). -/
def setterResult (i : Instr) (x : Ctx) : Option Ctx :=
  match i with
  | .setChannel ch => some { x with channel := ch }
  | .setSts mode len => some { x with stsMode := mode, stsLen := len }
  | .setCrcMode m => (crcModeOf m).map fun mode => { x with crcMode := mode }
  | .setFceDis b => some { x with fceDis := b }
  | .setZeroLenOk b => some { x with zeroLenOk := b }
  | .setLongFrames b => some { x with longFrames := b }
  | .setCallback id present => some { x with cb := withCallback x.cb id present }
  | _ => none

/-- The rows that can meet the protocol error. -/
def mayHalt : Instr → Bool
  | .transact .. | .fastcmd _ | .busRdShort .. | .busWrShort .. | .busRdExt .. | .busWrExt .. => true
  | _ => false

/-- The points at which an operation of the CMD port starts. -/
def isEntry : Point → Bool
  | .read .. | .write .. | .stateRead | .crit .mask _ => true
  | .trx p _ => p == .pll || p == .antRead || p == .command
  | .dbl p => p == .toggle || p == .disModify || p == .enModify true || p == .enModify false
  | .crit .. | .pass .. => false

/-- Everything an instruction can do. -/
inductive ExecEffect (i : Instr) (s : State) : State → Prop where
  | answered (r : Result) : ExecEffect i s (answer r s)
  | initialized (h : i = .init) :
      ExecEffect i s
        (answer (.ok .unit)
          { s with ctx := { Ctx.powerOn with live := true }, evt := EventRec.zero, seq := Sequencer.powerOn })
  | deinitialized (h : i = .deinit) (hl : s.ctx.live = true) :
      ExecEffect i s
        (answer (.ok .unit) { s with ctx := Ctx.powerOn, evt := EventRec.zero, seq := Sequencer.powerOn })
  | set (x : Ctx) (h : setterResult i s.ctx = some x) (hl : s.ctx.live = true) :
      ExecEffect i s (answer (.ok .unit) { s with ctx := x })
  | halts (h : mayHalt i = true) (hc : s.cfg.HALT_ON_PROTOCOL_ERROR = true) (hl : s.ctx.live = true) :
      ExecEffect i s { s with seq := { s.seq with halted := true } }
  | started (p : Point) (h : isEntry p = true) (hl : s.ctx.live = true) :
      ExecEffect i s (runTask { owner := .cmd, pt := p, phase := .ready } s)
  | pass (h : i = .isrPass) (hl : s.ctx.live = true) (hp : s.seq.inPass = false) (hn : hasPass s.stack = false)
      (hc : inCallback s.stack = false) :
      ExecEffect i s (startPass .passCmd s)

/-- A request either meets the checks of 60_exceptions.md R378, or goes on. -/
theorem request_effect (i : Instr) (s t : State) (k : State → Host.Outcome State Fault Refusal)
    (h : request s k = .next t) (hk : s.ctx.live = true → k s = .next t → ExecEffect i s t) :
    s.seq.halted = false ∧ ExecEffect i s t := by
  unfold request at h
  split at h
  · exact absurd h (by simp)
  · next hh =>
    refine ⟨by simpa using hh, ?_⟩
    split at h
    · next hl => exact hk hl h
    · simp only [Host.Outcome.next.injEq] at h
      exact h ▸ .answered _

theorem reply_effect (i : Instr) (s t : State) (r : Result) (h : reply r s = .next t) : ExecEffect i s t := by
  simp only [reply, Host.Outcome.next.injEq] at h
  exact h ▸ .answered _

theorem start_effect (i : Instr) (s t : State) (p : Point) (hl : s.ctx.live = true) (hp : isEntry p = true)
    (h : start p s = .next t) : ExecEffect i s t := by
  simp only [start, Host.Outcome.next.injEq] at h
  exact h ▸ .started p hp hl

theorem protocolError_effect (i : Instr) (s t : State) (hl : s.ctx.live = true) (hi : mayHalt i = true)
    (h : protocolError s = .next t) : ExecEffect i s t := by
  unfold protocolError at h
  split at h
  · next hc =>
    simp only [Host.Outcome.next.injEq] at h
    exact h ▸ .halts hi hc hl
  · exact reply_effect i s t _ h

/-- An operation of one transaction. -/
theorem requestStart_effect (i : Instr) (s t : State) (p : Point) (hp : isEntry p = true)
    (h : request s (start p) = .next t) : s.seq.halted = false ∧ ExecEffect i s t :=
  request_effect i s t _ h fun hl hk => start_effect i s t p hl hp hk

theorem codec_effect (i : Instr) (s t : State) (b : Bool) (p : Point) (hp : isEntry p = true)
    (hi : b = true ∨ mayHalt i = true) (h : codec b p s = .next t) : s.seq.halted = false ∧ ExecEffect i s t := by
  refine request_effect i s t _ h fun hl hk => ?_
  split at hk
  · exact start_effect i s t p hl hp hk
  · next hb => exact protocolError_effect i s t hl (hi.resolve_left hb) hk

theorem setCtx_effect (i : Instr) (s t : State) (f : Ctx → Ctx) (hi : setterResult i s.ctx = some (f s.ctx))
    (h : setCtx f s = .next t) : s.seq.halted = false ∧ ExecEffect i s t := by
  refine request_effect i s t _ h fun hl hk => ?_
  simp only [reply, Host.Outcome.next.injEq] at hk
  exact hk ▸ .set _ hi hl

theorem isEntry_trxFirst (st : Start) : isEntry (.trx (trxFirst st) st) = true := by
  rcases st with ⟨tx, flv, opt⟩
  cases tx <;> cases flv <;> rfl

theorem isEntry_transactPoint (c : Cfg) (k : Kind) (addr : Word) (offset len : Half) (buf : List Byte) :
    isEntry (transactPoint c k addr offset len buf) = true := by
  cases k <;> rfl

/-- What an instruction does when it answers a next state: the block was not halted, and the effect is one of a few. -/
theorem exec_effect (i : Instr) (s t : State) (h : exec i s = .next t) : s.seq.halted = false ∧ ExecEffect i s t := by
  cases i <;> simp only [exec] at h
  case init =>
    unfold execInit at h
    split at h
    · exact absurd h (by simp)
    · next hh =>
      simp only [reply, Host.Outcome.next.injEq] at h
      exact ⟨by simpa using hh, h ▸ .initialized rfl⟩
  case deinit =>
    refine request_effect _ s t _ h fun hl hk => ?_
    simp only [reply, Host.Outcome.next.injEq] at hk
    exact hk ▸ .deinitialized rfl hl
  case cmdReserved =>
    unfold execCmdReserved at h
    split at h
    · exact absurd h (by simp)
    · next hh => exact ⟨by simpa using hh, reply_effect _ s t _ h⟩
  case setCrcMode m =>
    unfold execSetCrcMode at h
    split at h
    · next mode hm => exact setCtx_effect _ s t _ (by simp [setterResult, hm]) h
    · exact request_effect _ s t _ h fun _ hk => reply_effect _ s t _ hk
  case setChannel => exact setCtx_effect _ s t _ rfl h
  case setSts => exact setCtx_effect _ s t _ rfl h
  case setFceDis => exact setCtx_effect _ s t _ rfl h
  case setZeroLenOk => exact setCtx_effect _ s t _ rfl h
  case setLongFrames => exact setCtx_effect _ s t _ rfl h
  case setCallback => exact setCtx_effect _ s t _ rfl h
  case busRdShort => exact codec_effect _ s t _ _ rfl (.inr rfl) h
  case busWrShort => exact codec_effect _ s t _ _ rfl (.inr rfl) h
  case busRdExt => exact codec_effect _ s t _ _ rfl (.inr rfl) h
  case busWrExt => exact codec_effect _ s t _ _ rfl (.inr rfl) h
  case busMod8 => exact codec_effect _ s t _ _ rfl (.inl rfl) h
  case busMod16 => exact codec_effect _ s t _ _ rfl (.inl rfl) h
  case busMod32 => exact codec_effect _ s t _ _ rfl (.inl rfl) h
  case busFast => exact codec_effect _ s t _ _ rfl (.inl rfl) h
  case transact addr offset len mode fast buf =>
    refine request_effect _ s t _ h fun hl hk => ?_
    split at hk
    · exact protocolError_effect _ s t hl rfl hk
    · split at hk
      · exact start_effect _ s t _ hl (isEntry_transactPoint ..) hk
      · exact protocolError_effect _ s t hl rfl hk
  case fastcmd =>
    refine request_effect _ s t _ h fun hl hk => ?_
    split at hk
    · exact start_effect _ s t _ hl rfl hk
    · exact protocolError_effect _ s t hl rfl hk
  case startTx =>
    refine request_effect _ s t _ h fun hl hk => ?_
    split at hk
    · exact reply_effect _ s t _ hk
    · exact start_effect _ s t _ hl (isEntry_trxFirst _) hk
  case startRx =>
    refine request_effect _ s t _ h fun hl hk => ?_
    split at hk
    · exact reply_effect _ s t _ hk
    · exact start_effect _ s t _ hl (isEntry_trxFirst _) hk
  case dblEnable auto => cases auto <;> exact requestStart_effect _ s t _ rfl h
  case signalBufferFree =>
    refine request_effect _ s t _ h fun hl hk => ?_
    split at hk
    · exact start_effect _ s t _ hl rfl hk
    · exact reply_effect _ s t _ hk
  case isrPass =>
    refine request_effect _ s t _ h fun hl hk => ?_
    split at hk
    · exact reply_effect _ s t _ hk
    · next hp =>
      simp only [Host.Outcome.next.injEq] at hk
      simp only [Bool.or_eq_true, not_or, Bool.not_eq_true] at hp
      exact hk ▸ .pass rfl hl hp.1.1 hp.1.2 hp.2
  case busInvalidFastRead => exact absurd h (by simp [execBusInvalidFastRead])
  case busInvalidReadM1 => exact absurd h (by simp [execBusInvalidReadM1])
  case busInvalidReadM2 => exact absurd h (by simp [execBusInvalidReadM2])
  case busInvalidReadM3 => exact absurd h (by simp [execBusInvalidReadM3])
  all_goals exact requestStart_effect _ s t _ rfl h

end Sys2Proof.Laws
end

