-- ==== Sys2Proof/Laws/Pass.lean ====
section
/-! SUPPORT. Where a classifier pass goes after each of its actions: always forward, with the snapshot it has. -/

namespace Sys2Proof.Laws

open Sys2Proof.Machine

/-- The pass goes on at rank `lo` or later with the same fast status and low status word, or ends; the context and
`rec.status_hi` are as they were. -/
structure Onward (lo : Nat) (v : Snap) (s : State) (y : State × Next) : Prop where
  ctx : y.1.ctx = s.ctx
  statusHi : y.1.evt.statusHi = s.evt.statusHi
  next : y.2 = doneOk ∨ ∃ q w, y.2 = passGoto q w ∧ lo ≤ passRank q ∧ w.fstat = v.fstat ∧ w.st = v.st

theorem Onward.mono {lo lo' : Nat} {v : Snap} {s : State} {y : State × Next} (h : Onward lo v s y) (hl : lo' ≤ lo) :
    Onward lo' v s y :=
  ⟨h.ctx, h.statusHi, h.next.imp id fun ⟨q, w, h1, h2, h3⟩ => ⟨q, w, h1, Nat.le_trans hl h2, h3⟩⟩

/-- Going on at a point. -/
theorem onward_goto (lo : Nat) (v w : Snap) (s s' : State) (q : PassPt) (hc : s'.ctx = s.ctx)
    (he : s'.evt.statusHi = s.evt.statusHi) (hr : lo ≤ passRank q) (hf : w.fstat = v.fstat) (hs : w.st = v.st) :
    Onward lo v s (s', passGoto q w) :=
  ⟨hc, he, .inr ⟨q, w, rfl, hr, hf, hs⟩⟩

/-- A gate: the group's first point, or what comes after the group. -/
theorem onward_ite (lo : Nat) (v : Snap) (s : State) (b : Bool) (x y : State × Next) (hx : Onward lo v s x)
    (hy : Onward lo v s y) : Onward lo v s (if b then x else y) := by
  cases b
  · exact hy
  · exact hx

theorem enterGroup8_onward (v : Snap) (s : State) : Onward 29 v s (enterGroup8 v s) := by
  unfold enterGroup8
  cases s.cfg.HAS_DUAL_SPI
  · exact ⟨rfl, rfl, .inl rfl⟩
  · exact onward_goto _ _ _ _ _ _ rfl rfl (by decide) rfl rfl

theorem enterGroup7_onward (v : Snap) (s : State) : Onward 25 v s (enterGroup7 v s) :=
  onward_ite _ _ _ _ _ _ (onward_goto _ _ _ _ _ _ rfl rfl (by decide) rfl rfl)
    ((enterGroup8_onward v s).mono (by decide))

theorem enterGroup6_onward (v : Snap) (s : State) : Onward 21 v s (enterGroup6 v s) :=
  onward_ite _ _ _ _ _ _ (onward_goto _ _ _ _ _ _ rfl rfl (by decide) rfl rfl)
    ((enterGroup7_onward v s).mono (by decide))

theorem leaveGroup5_onward (v : Snap) (s : State) : Onward 21 v s (leaveGroup5 v s) :=
  let h := enterGroup6_onward { v with absorbed := v.clr &&& s.cfg.M.RXFCE } s
  ⟨h.ctx, h.statusHi, h.next⟩

theorem dispatchRx_onward (v : Snap) (s : State) : Onward 18 v s (dispatchRx v s) :=
  onward_ite _ _ _ _ _ _ (onward_goto _ _ _ _ _ _ rfl rfl (by decide) rfl rfl)
    (onward_goto _ _ _ _ _ _ rfl rfl (by decide) rfl rfl)

theorem enterGroup5_onward (v : Snap) (s : State) : Onward 15 v s (enterGroup5 v s) := by
  refine onward_ite _ _ _ _ _ _ (onward_ite _ _ _ _ _ _ ?_ ?_) ((enterGroup6_onward v s).mono (by decide))
  · exact onward_goto _ _ _ _ _ _ rfl rfl (by decide) rfl rfl
  · refine onward_goto _ _ _ _ _ _ rfl rfl ?_ rfl rfl
    cases lengthReads s.cfg s.ctx v <;> decide

theorem enterBenign_onward (v : Snap) (s : State) : Onward 14 v s (enterBenign v s) :=
  onward_ite _ _ _ _ _ _ (onward_goto _ _ _ _ _ _ rfl rfl (by decide) rfl rfl)
    (let h := (enterGroup5_onward { v with benign := false } s).mono (by decide)
     ⟨h.ctx, h.statusHi, h.next⟩)

theorem enterGroup4_onward (v : Snap) (s : State) : Onward 12 v s (enterGroup4 v s) :=
  onward_ite _ _ _ _ _ _ (onward_goto _ _ _ _ _ _ rfl rfl (by decide) rfl rfl)
    ((enterBenign_onward v s).mono (by decide))

theorem enterGroup3_onward (v : Snap) (s : State) : Onward 9 v s (enterGroup3 v s) :=
  onward_ite _ _ _ _ _ _ (onward_goto _ _ _ _ _ _ rfl rfl (by decide) rfl rfl)
    ((enterGroup4_onward v s).mono (by decide))

theorem enterGroup2b_onward (v : Snap) (s : State) : Onward 7 v s (enterGroup2b v s) :=
  onward_ite _ _ _ _ _ _ (onward_goto _ _ _ _ _ _ rfl rfl (by decide) rfl rfl)
    ((enterGroup3_onward v s).mono (by decide))

theorem enterGroup2a_onward (v : Snap) (s : State) : Onward 4 v s (enterGroup2a v s) :=
  onward_ite _ _ _ _ _ _ (onward_goto _ _ _ _ _ _ rfl rfl (by decide) rfl rfl)
    ((enterGroup2b_onward v s).mono (by decide))

theorem enterGroup2_onward (v : Snap) (s : State) : Onward 3 v s (enterGroup2 v s) :=
  onward_ite _ _ _ _ _ _ (onward_goto _ _ _ _ _ _ rfl rfl (by decide) rfl rfl)
    ((enterGroup3_onward v s).mono (by decide))

theorem endCapture_onward (v : Snap) (s : State) : Onward 3 v s (endCapture v s) :=
  let h := enterGroup2_onward { v with absorbed := 0 } (setEvt { s.evt with status := v.st } s)
  ⟨h.ctx, h.statusHi, h.next⟩

theorem freeOr_onward (lo : Nat) (q : PassPt) (v : Snap) (s : State) (after : State × Next) (hq : lo ≤ passRank q)
    (ha : Onward lo v s after) : Onward lo v s (freeOr q v s after) :=
  onward_ite _ _ _ _ _ _ (onward_goto _ _ _ _ _ _ rfl rfl hq rfl rfl) ha

/-- What follows a successful action of a pass: the snapshot `v'` goes on (the capture points fill it), the context is
kept but for the flips, `rec.status_hi` is written by the read of the high status word only. -/
theorem passFollow_onward (p : PassPt) (v : Snap) (d : List Byte) (s : State) :
    ∃ (v' : Snap) (s0 : State), Onward (passRank p + 1) v' s0 (passFollow p v d s) ∧
      (p ≠ .capFstat → v'.fstat = v.fstat) ∧ (p ≠ .capFstat → p ≠ .capStatus → p ≠ .capSub → v'.st = v.st) ∧
      s0.ctx = (if p = .g5Flip ∨ p = .g6Flip ∨ p = .g7Flip then (flipDbl s).ctx else s.ctx) ∧
      s0.evt.statusHi = (if p = .g2Hi then hiOf s.cfg d else s.evt.statusHi) := by
  cases p <;> simp only [passFollow]
  case capFstat => exact ⟨_, s, onward_goto _ _ _ _ _ _ rfl rfl (by decide) rfl rfl, by simp⟩
  case capStatus =>
    exact ⟨{ v with st := unLE32 d }, s,
      onward_ite _ _ _ _ _ _ (onward_goto _ _ _ _ _ _ rfl rfl (by decide) rfl rfl)
        ((endCapture_onward _ s).mono (by decide)), by simp⟩
  case capSub =>
    exact ⟨_, s, endCapture_onward { v with
        sdb := subHalf s.ctx.dbl (byteAt d 0)
        st := mergeSub s.cfg (subHalf s.ctx.dbl (byteAt d 0)) v.st } s, by simp⟩
  case g2Hi =>
    exact ⟨{ v with hi := hiOf s.cfg d }, setEvt { s.evt with statusHi := hiOf s.cfg d } s,
      enterGroup2a_onward _ _, by simp⟩
  case g2aLo => exact ⟨v, s, onward_goto _ _ _ _ _ _ rfl rfl (by decide) rfl rfl, by simp⟩
  case g2aHi => exact ⟨v, s, onward_goto _ _ _ _ _ _ rfl rfl (by decide) rfl rfl, by simp⟩
  case g2aCb => exact ⟨v, s, enterGroup2b_onward v s, by simp⟩
  case g2bHi => exact ⟨v, s, onward_goto _ _ _ _ _ _ rfl rfl (by decide) rfl rfl, by simp⟩
  case g2bCb => exact ⟨v, s, enterGroup3_onward v s, by simp⟩
  case g3Pll => exact ⟨v, s, onward_goto _ _ _ _ _ _ rfl rfl (by decide) rfl rfl, by simp⟩
  case g3Cb => exact ⟨v, s, onward_goto _ _ _ _ _ _ rfl rfl (by decide) rfl rfl, by simp⟩
  case g3Clr => exact ⟨v, s, enterGroup4_onward v s, by simp⟩
  case g4Cb => exact ⟨v, s, onward_goto _ _ _ _ _ _ rfl rfl (by decide) rfl rfl, by simp⟩
  case g4Clr => exact ⟨v, s, enterBenign_onward v s, by simp⟩
  case g5Benign => exact ⟨_, s, enterGroup5_onward _ s, by simp⟩
  case g5Finfo =>
    exact ⟨{ v with fi := unLE16 d }, s, onward_goto _ _ _ _ _ _ rfl rfl (by decide) rfl rfl, by simp⟩
  case g5Clr =>
    exact ⟨v, s,
      onward_ite _ _ _ _ _ _ (onward_goto _ _ _ _ _ _ rfl rfl (by decide) rfl rfl)
        ((dispatchRx_onward v s).mono (by decide)), by simp⟩
  case g5Sub => exact ⟨v, s, dispatchRx_onward v s, by simp⟩
  case g5Err => exact ⟨v, s, freeOr_onward _ _ _ _ _ (by decide) ((leaveGroup5_onward v s).mono (by decide)), by simp⟩
  case g5Ok => exact ⟨v, s, freeOr_onward _ _ _ _ _ (by decide) ((leaveGroup5_onward v s).mono (by decide)), by simp⟩
  case g5Toggle => exact ⟨v, s, onward_goto _ _ _ _ _ _ rfl rfl (by decide) rfl rfl, by simp⟩
  case g5Flip => exact ⟨v, flipDbl s, leaveGroup5_onward v _, by simp⟩
  case g6Clr =>
    exact ⟨v, s, freeOr_onward _ _ _ _ _ (by decide) (onward_goto _ _ _ _ _ _ rfl rfl (by decide) rfl rfl), by simp⟩
  case g6Toggle => exact ⟨v, s, onward_goto _ _ _ _ _ _ rfl rfl (by decide) rfl rfl, by simp⟩
  case g6Flip => exact ⟨v, flipDbl s, onward_goto _ _ _ _ _ _ rfl rfl (by decide) rfl rfl, by simp⟩
  case g6Cb => exact ⟨v, s, enterGroup7_onward v s, by simp⟩
  case g7Clr =>
    exact ⟨v, s, freeOr_onward _ _ _ _ _ (by decide) (onward_goto _ _ _ _ _ _ rfl rfl (by decide) rfl rfl), by simp⟩
  case g7Toggle => exact ⟨v, s, onward_goto _ _ _ _ _ _ rfl rfl (by decide) rfl rfl, by simp⟩
  case g7Flip => exact ⟨v, flipDbl s, onward_goto _ _ _ _ _ _ rfl rfl (by decide) rfl rfl, by simp⟩
  case g7Cb => exact ⟨v, s, enterGroup8_onward v s, by simp⟩
  case g8Read =>
    refine ⟨v, s, ?_, by simp⟩
    cases hd : anySet (byteAt d 0) s.cfg.M.DSS_AVAIL
    · exact ⟨rfl, rfl, .inl (by simp)⟩
    · exact ⟨rfl, rfl, .inr ⟨.g8Clr, { v with dss := byteAt d 0 }, by simp, by decide, rfl, rfl⟩⟩
  case g8Clr => exact ⟨v, s, onward_goto _ _ _ _ _ _ rfl rfl (by decide) rfl rfl, by simp⟩
  case g8Cb => exact ⟨v, s, ⟨rfl, rfl, .inl rfl⟩, by simp⟩

/-! ## Where a group begins -/

/-- The first points of the groups, at which an entry function goes on. -/
def isGate : PassPt → Bool
  | .g2Hi | .g2aLo | .g2bHi | .g3Pll | .g4Cb | .g5Benign | .g5Finfo | .g5Clr | .g6Clr | .g7Clr | .g8Read => true
  | _ => false

/-- What goes on, goes on at the first point of a group. -/
def AtGate (y : State × Next) : Prop :=
  ∀ q w, y.2 = passGoto q w → isGate q = true

theorem atGate_goto (s : State) (q : PassPt) (w : Snap) (h : isGate q = true) : AtGate (s, passGoto q w) := by
  intro q' w' he
  simp only [passGoto, Next.goto.injEq, Point.pass.injEq] at he
  exact he.1 ▸ h

theorem atGate_ite (b : Bool) (x y : State × Next) (hx : AtGate x) (hy : AtGate y) : AtGate (if b then x else y) := by
  cases b
  · exact hy
  · exact hx

theorem enterGroup8_gate (v : Snap) (s : State) : AtGate (enterGroup8 v s) := by
  unfold enterGroup8
  cases s.cfg.HAS_DUAL_SPI
  · intro q w he; exact absurd he (by simp [doneOk, passGoto])
  · exact atGate_goto _ _ _ rfl

theorem enterGroup7_gate (v : Snap) (s : State) : AtGate (enterGroup7 v s) :=
  atGate_ite _ _ _ (atGate_goto _ _ _ rfl) (enterGroup8_gate v s)

theorem enterGroup6_gate (v : Snap) (s : State) : AtGate (enterGroup6 v s) :=
  atGate_ite _ _ _ (atGate_goto _ _ _ rfl) (enterGroup7_gate v s)

theorem enterGroup5_gate (v : Snap) (s : State) : AtGate (enterGroup5 v s) := by
  refine atGate_ite _ _ _ (atGate_ite _ _ _ (atGate_goto _ _ _ rfl) (atGate_goto _ _ _ ?_)) (enterGroup6_gate v s)
  cases lengthReads s.cfg s.ctx v <;> rfl

theorem enterBenign_gate (v : Snap) (s : State) : AtGate (enterBenign v s) :=
  atGate_ite _ _ _ (atGate_goto _ _ _ rfl) (enterGroup5_gate _ s)

theorem enterGroup4_gate (v : Snap) (s : State) : AtGate (enterGroup4 v s) :=
  atGate_ite _ _ _ (atGate_goto _ _ _ rfl) (enterBenign_gate v s)

theorem enterGroup3_gate (v : Snap) (s : State) : AtGate (enterGroup3 v s) :=
  atGate_ite _ _ _ (atGate_goto _ _ _ rfl) (enterGroup4_gate v s)

theorem enterGroup2b_gate (v : Snap) (s : State) : AtGate (enterGroup2b v s) :=
  atGate_ite _ _ _ (atGate_goto _ _ _ rfl) (enterGroup3_gate v s)

theorem enterGroup2a_gate (v : Snap) (s : State) : AtGate (enterGroup2a v s) :=
  atGate_ite _ _ _ (atGate_goto _ _ _ rfl) (enterGroup2b_gate v s)

theorem endCapture_gate (v : Snap) (s : State) : AtGate (endCapture v s) :=
  atGate_ite _ _ _ (atGate_goto _ _ _ rfl) (enterGroup3_gate _ _)

/-- A pass goes on at a point of a pass, or ends. -/
theorem passResume_next (p : PassPt) (v : Snap) (r : ActResult) (s : State) :
    (passResume p v r s).2 = busFail ∨ (passResume p v r s).2 = doneOk ∨
      ∃ q w, (passResume p v r s).2 = .goto (.pass q w) ∧ passRank p < passRank q := by
  unfold passResume
  split
  · exact .inl rfl
  · obtain ⟨v', s0, h, -⟩ := passFollow_onward p v r.bytes s
    exact .inr (h.next.imp id fun ⟨q, w, h1, h2, _⟩ => ⟨q, w, h1, h2⟩)

end Sys2Proof.Laws
end

