-- ==== Sys2Proof/Laws/Invariant.lean ====
section
/-! SUPPORT. The shared operations keep the invariant of Safety.lean: the end of an action, one action of a task, the start
of a pass, an instruction, a boundary. -/

namespace Sys2Proof.Laws

open Sys2Proof.Machine

/-- Inside a critical section once the point's action is over. -/
def maskedAfter : Point → Bool
  | .crit .mask _ | .crit (.run _) _ => true
  | _ => false

theorem canCallBack_notMasked {t : Task} (h : canCallBack t.pt = true) : t.masked = false ∧ maskedAfter t.pt =
    false := by
  rcases t with ⟨o, p, ph⟩
  cases p <;> simp_all [canCallBack, Task.masked, maskedAfter]

theorem mayStandOn_top {t : Task} {b : List Entry} (h : mayStandOn t b = true) : topMasked b = false := by
  cases b with
  | nil => rfl
  | cons e b => cases e with
    | task u => simp_all [mayStandOn, topMasked]
    | handler f => rfl

theorem hiOf_lt (c : Cfg) (d : List Byte) (h : c.STATUS_HI_WIDTH = 16) : (hiOf c d).toNat < 0x10000 := by
  unfold hiOf
  rw [if_pos h]
  have := (unLE16 d).isLt
  rw [BitVec.toNat_setWidth]
  omega

theorem passFollow_statusHi (p : PassPt) (v : Snap) (d : List Byte) (s : State) :
    (passFollow p v d s).1.evt.statusHi = s.evt.statusHi ∨ (passFollow p v d s).1.evt.statusHi = hiOf s.cfg d := by
  obtain ⟨v', s0, h, _, _, _, h2⟩ := passFollow_onward p v d s
  rw [h.statusHi, h2]
  split
  · exact .inr rfl
  · exact .inl rfl

theorem resumeAt_statusHi (p : Point) (r : ActResult) (s : State) :
    (resumeAt p r s).1.evt.statusHi = s.evt.statusHi ∨ ∃ d, (resumeAt p r s).1.evt.statusHi = hiOf s.cfg d := by
  cases p with
  | dbl p => cases p <;> exact .inl rfl
  | pass p v =>
    simp only [resumeAt, passResume]
    split
    · exact .inl rfl
    · exact (passFollow_statusHi p v _ s).imp id fun h => ⟨_, h⟩
  | _ => exact .inl rfl

theorem resumeAt_masked (p q : Point) (r : ActResult) (s s' : State) (h : resumeAt p r s = (s', .goto q)) :
    Task.masked { owner := .cmd, pt := q, phase := .ready } = maskedAfter p := by
  have key : (∀ k g, q ≠ .crit k g) → maskedAfter p = false →
     Task.masked { owner := .cmd, pt := q, phase := .ready } = maskedAfter p := by
    intro h1 h2
    rw [h2]
    cases q with
    | crit k g => exact absurd rfl (h1 k g)
    | _ => rfl
  have hn : (resumeAt p r s).2 = .goto q := by rw [h]
  cases p with
  | read => simp [resumeAt, orFail, busFail] at hn
            split at hn <;> simp at hn
  | write => simp only [resumeAt, orFail, busFail, doneOk] at hn
             split at hn <;> simp at hn
  | stateRead =>
    simp only [resumeAt, stateReadResume, orFail, busFail, doneOk] at hn
    split at hn
    · simp at hn
    · split at hn
      · simp at hn
      · simp only [Next.goto.injEq] at hn; subst hn; rfl
  | trx p st =>
    refine key ?_ rfl
    rintro k g rfl
    simp only [resumeAt, trxResume, orFail, busFail] at hn
    split at hn
    · simp at hn
    · cases p <;> simp only [trxFollow, doneOk, trxLate, trxAfterOff] at hn <;> (repeat' split at hn) <;> simp at hn
  | crit p g =>
    cases p <;> simp [resumeAt, critResume] at hn <;> subst hn <;> rfl
  | dbl p =>
    refine key ?_ rfl
    rintro k g rfl
    cases p <;> simp only [resumeAt, dblResume, orFail, busFail, doneOk] at hn <;> (repeat' split at hn) <;> simp
        at hn
  | pass p v =>
    refine key ?_ rfl
    rintro k g rfl
    simp only [resumeAt] at hn
    rcases passResume_next p v r s with h1 | h1 | ⟨q, w, h1, _⟩ <;> rw [h1] at hn <;> simp [busFail, doneOk] at hn

theorem resumeAt_done (p : Point) (r : ActResult) (s s' : State) (x : Result) (h : resumeAt p r s = (s', .done x)) :
    maskedAfter p = false := by
  have hn : (resumeAt p r s).2 = .done x := by rw [h]
  cases p with
  | crit p g => cases p <;> simp [resumeAt, critResume, maskedAfter] at hn ⊢
  | _ => rfl

/-- No pass in progress. -/
theorem passCount_zero {st : List Entry} (h : hasPass st = false) : passCount st = 0 := by
  unfold passCount
  rw [List.countP_eq_zero]
  intro e he
  have := List.any_eq_false.1 h e he
  simpa using this

/-- A task counts by its owner alone. -/
theorem passCount_task (t u : Task) (st : List Entry) (h : t.owner = u.owner) :
    passCount (.task t :: st) = passCount (.task u :: st) := by
  simp [passCount, List.countP_cons, Entry.isPass, Task.isPass, h]

theorem passCount_handler (f : CallbackId) (st : List Entry) : passCount (.handler f :: st) = passCount st := by
  simp [passCount, Entry.isPass]

theorem passCount_le (e : Entry) (st : List Entry) : passCount st ≤ passCount (e :: st) := by
  simp only [passCount, List.countP_cons]
  omega

/-- What the end of an action needs. -/
structure SettlePre (t : Task) (s : State) : Prop where
  memory : memWf s.env.chip.mem = true
  stack : stackOk s.stack = true
  stand : mayStandOn t s.stack = true
  masked : s.seq.irqMasked = maskedAfter t.pt
  platform : s.seq.irqMasked = true → s.env.platMask = true
  inPass : s.seq.inPass = true → hasPass (.task t :: s.stack) = true
  onePass : passCount (.task t :: s.stack) ≤ 1
  served : s.served = false
  halted : s.seq.halted = true → s.cfg.HALT_ON_PROTOCOL_ERROR = true
  statusHi : s.cfg.STATUS_HI_WIDTH = 16 → s.evt.statusHi.toNat < 0x10000

/-- The end of an action keeps the invariant. -/
theorem settle_inv (t : Task) (r : ActResult) (s : State) (h : SettlePre t s) : Invariant (settle t r s) := by
  have hi := resumeAt_statusHi t.pt r s
  have ho := resumeAt_only t.pt r s
  have hst : (resumeAt t.pt r s).1.cfg.STATUS_HI_WIDTH = 16 → (resumeAt t.pt r s).1.evt.statusHi.toNat < 0x10000 := by
    intro hw
    rw [ho] at hw
    rcases hi with e | ⟨d, e⟩
    · rw [e]; exact h.statusHi hw
    · rw [e]; exact hiOf_lt _ _ hw
  rcases settle_cases t r s with ⟨p, s', hr, he⟩ | ⟨res, s', hr, he⟩
  · rw [he]
    rw [hr] at ho hst
    have hm := resumeAt_masked t.pt p r s s' hr
    dsimp only at ho hst
    rw [ho] at hst ⊢
    constructor
    · exact h.memory
    · simp only [park_stack, stackOk, h.stack, Bool.and_true]
      have := h.stand
      unfold mayStandOn at this ⊢
      simp_all [Task.isHeld, Task.coherent]
    · show s.seq.irqMasked = _
      rw [h.masked, ← hm]; rfl
    · exact h.platform
    · intro hp; have := h.inPass hp; simpa [hasPass, Entry.isPass, Task.isPass] using this
    · exact passCount_task t _ s.stack rfl ▸ h.onePass
    · intro hd; exact absurd hd (by simp [h.served])
    · exact h.halted
    · exact hst
  · rw [he]
    rw [hr] at ho hst
    have hm := resumeAt_done t.pt r s s' res hr
    dsimp only at ho hst
    rw [ho] at hst ⊢
    have hb := mayStandOn_top h.stand
    have hmm := h.masked
    rw [hm] at hmm
    have hfin : ∀ o, (finish o res { s with ctx := { s.ctx with dbl := s'.ctx.dbl }, evt := s'.evt }).env = s.env ∧
      (finish o res { s with ctx := { s.ctx with dbl := s'.ctx.dbl }, evt := s'.evt }).stack = s.stack ∧
      (finish o res { s with ctx := { s.ctx with dbl := s'.ctx.dbl }, evt := s'.evt }).cfg = s.cfg ∧
      (finish o res { s with ctx := { s.ctx with dbl := s'.ctx.dbl }, evt := s'.evt }).evt = s'.evt ∧
      (finish o res { s with ctx := { s.ctx with dbl := s'.ctx.dbl }, evt := s'.evt }).seq.irqMasked =
          s.seq.irqMasked ∧
      (finish o res { s with ctx := { s.ctx with dbl := s'.ctx.dbl }, evt := s'.evt }).seq.halted = s.seq.halted ∧
      ((finish o res { s with ctx := { s.ctx with dbl := s'.ctx.dbl }, evt := s'.evt }).seq.inPass = true → o =
          .cmd ∧ s.seq.inPass = true) ∧
      ((finish o res { s with ctx := { s.ctx with dbl := s'.ctx.dbl }, evt := s'.evt }).served = true →
          s.served = true ∨ topIsTask s.stack = true) := by
      intro o; cases o <;> simp +contextual [finish]
    obtain ⟨h1, h2, h3, h4, h5, h6, h7, h8⟩ := hfin t.owner
    constructor
    · rw [h1]; exact h.memory
    · rw [h2]; exact h.stack
    · rw [h2, h5, hb, hmm]
    · rw [h5, h1]; exact h.platform
    · intro hp
      obtain ⟨ho, hp⟩ := h7 hp
      have := h.inPass hp
      rw [h2]
      simpa [hasPass, Entry.isPass, Task.isPass, ho] using this
    · rw [h2]; exact Nat.le_trans (passCount_le _ _) h.onePass
    · intro hd
      rw [h2]
      exact (h8 hd).resolve_left (by simp [h.served])
    · rw [h6, h3]; exact h.halted
    · rw [h3, h4]; exact hst

/-- What one action of a task needs. -/
structure RunPre (t : Task) (s : State) : Prop where
  memory : memWf s.env.chip.mem = true
  stack : stackOk s.stack = true
  stand : mayStandOn t s.stack = true
  coherent : t.coherent = true
  notHeld : t.isHeld = false
  masked : s.seq.irqMasked = t.masked
  platform : s.seq.irqMasked = true → s.env.platMask = true
  inPass : s.seq.inPass = true → hasPass (.task t :: s.stack) = true
  onePass : passCount (.task t :: s.stack) ≤ 1
  served : s.served = false
  halted : s.seq.halted = true → s.cfg.HALT_ON_PROTOCOL_ERROR = true
  statusHi : s.cfg.STATUS_HI_WIDTH = 16 → s.evt.statusHi.toNat < 0x10000

theorem busRead_memWf (hdr : List Byte) (n : Nat) (s : State) (h : memWf s.env.chip.mem = true) :
   memWf (busRead hdr n s).2.env.chip.mem = true := transfer_memWf _ _ _ _ h
theorem busWrite_memWf (hdr b : List Byte) (s : State) (h : memWf s.env.chip.mem = true) :
   memWf (busWrite hdr b s).2.env.chip.mem = true := transfer_memWf _ _ _ _ h

/-- The task waits inside an action at which a callback can run. -/
theorem wait_inv (t : Task) (s : State) (ph : Phase) (h : RunPre t s) (hc : canCallBack t.pt = true) (e : Env) (es
    : List Event)
    (he : memWf e.chip.mem = true) (hp : e.platMask = s.env.platMask) (hh : ∀ d, ph ≠ .held d) :
    Invariant (park { t with phase := ph } { s with env := e, trace := es }) := by
  have hm := (canCallBack_notMasked hc).1
  constructor
  · exact he
  · simp only [park_stack, stackOk, h.stack, Bool.and_true]
    have := h.stand
    unfold mayStandOn at this ⊢
    cases ph <;> simp_all [Task.isHeld, Task.coherent]
  · show s.seq.irqMasked = _; rw [h.masked]; rfl
  · intro hi; show e.platMask = true; rw [hp]; exact h.platform hi
  · intro hp; have := h.inPass hp; simpa [hasPass, Entry.isPass, Task.isPass] using this
  · exact passCount_task t _ s.stack rfl ▸ h.onePass
  · intro hd; exact absurd hd (by simp [h.served])
  · exact h.halted
  · exact h.statusHi

/-- A callback runs at a point at which one can. -/
theorem call_inv (t : Task) (s : State) (f : CallbackId) (d : List Byte) (h : RunPre t s) (hc : canCallBack t.pt =
    true) :
    Invariant (callHost f { t with phase := .held d } s) := by
  have hm := (canCallBack_notMasked hc).1
  constructor
  · exact h.memory
  · simp only [callHost_stack, stackOk, h.stack, Bool.and_true]
    have := h.stand
    unfold mayStandOn at this ⊢
    simp_all [Task.isHeld, Task.coherent]
  · show s.seq.irqMasked = _; rw [h.masked]; simp [topMasked, hm]
  · exact h.platform
  · intro hp; have := h.inPass hp; simpa [hasPass, Entry.isPass, Task.isPass] using this
  · rw [callHost_stack, passCount_handler]; exact passCount_task t _ s.stack rfl ▸ h.onePass
  · intro hd; exact absurd hd (by simp [h.served])
  · exact h.halted
  · exact h.statusHi

theorem settlePre_of_run (t : Task) (s : State) (h : RunPre t s) (e : Env) (es : List Event)
    (hm : t.masked = maskedAfter t.pt)
    (he : memWf e.chip.mem = true) (hp : e.platMask = s.env.platMask) : SettlePre t { s with env := e, trace := es
        } := by
  constructor
  · exact he
  · exact h.stack
  · exact h.stand
  · rw [← hm]; exact h.masked
  · intro hi; show e.platMask = true; rw [hp]; exact h.platform hi
  · exact h.inPass
  · exact h.onePass
  · exact h.served
  · exact h.halted
  · exact h.statusHi

theorem notMasked_eq {t : Task} (h : canCallBack t.pt = true) : t.masked = maskedAfter t.pt := by
  rw [(canCallBack_notMasked h).1, (canCallBack_notMasked h).2]

theorem action_read {p : Point} {s : State} {hdr : List Byte} {c : Bool} {n : Nat} (h : actionOf p s = .read hdr c
    n) : canCallBack p = true := by
  cases p with
  | read | write | stateRead => first | rfl | simp [actionOf] at h
  | trx q st => cases q <;> simp [actionOf, trxAction, readAct, writeAct, fastAct] at h <;> rfl
  | crit q g => cases q <;> cases g <;> simp [actionOf, critAction, guardedAction, fastAct, modify32Act] at h
  | dbl q => cases q <;> simp [actionOf, dblAction, modify8Act, modify32Act, writeAct, fastAct] at h
  | pass q v => cases q <;> simp [actionOf, passAction, readAct, writeAct, fastAct, clearHi, clearLo] at h <;> rfl

theorem action_callback {p : Point} {s : State} {f : CallbackId} (h : actionOf p s = .callback f) : canCallBack p =
    true := by
  cases p with
  | read | write | stateRead => simp [actionOf, stateReadAction, readAct] at h
  | trx q st => cases q <;> simp [actionOf, trxAction, readAct, writeAct, fastAct] at h
  | crit q g => cases q <;> cases g <;> simp [actionOf, critAction, guardedAction, fastAct, modify32Act] at h
  | dbl q => cases q <;> simp [actionOf, dblAction, modify8Act, modify32Act, writeAct, fastAct] at h
  | pass q v => cases q <;> simp [actionOf, passAction, readAct, writeAct, fastAct, clearHi, clearLo] at h <;> rfl

theorem action_write {t : Task} {s : State} {a b : List Byte} (h : actionOf t.pt s = .write a b) : t.masked =
    maskedAfter t.pt := by
  rcases t with ⟨o, p, ph⟩
  cases p with
  | crit q g => cases q <;> cases g <;> simp [actionOf, critAction, guardedAction, fastAct, modify32Act] at h <;> rfl
  | _ => rfl

theorem action_silent {t : Task} {s : State} (h : actionOf t.pt s = .silent) : t.masked = maskedAfter t.pt := by
  rcases t with ⟨o, p, ph⟩
  cases p with
  | crit q g => cases q <;> cases g <;> simp [actionOf, critAction, guardedAction, fastAct, modify32Act] at h
  | _ => rfl

theorem action_mask {p : Point} {s : State} (h : actionOf p s = .maskOff) : maskedAfter p = true := by
  cases p with
  | read | write | stateRead => simp [actionOf, stateReadAction, readAct] at h
  | trx q st => cases q <;> simp [actionOf, trxAction, readAct, writeAct, fastAct] at h
  | crit q g => cases q <;> cases g <;> simp [actionOf, critAction, guardedAction, fastAct, modify32Act] at h <;> rfl
  | dbl q => cases q <;> simp [actionOf, dblAction, modify8Act, modify32Act, writeAct, fastAct] at h
  | pass q v => cases q <;> simp [actionOf, passAction, readAct, writeAct, fastAct, clearHi, clearLo] at h

theorem action_unmask {p : Point} {s : State} {tok : Bool} (h : actionOf p s = .maskOn tok) : maskedAfter p = false
    := by
  cases p with
  | read | write | stateRead => rfl
  | crit q g => cases q <;> cases g <;> simp [actionOf, critAction, guardedAction, fastAct, modify32Act] at h <;> rfl
  | _ => rfl

theorem callbackAction_inv (t : Task) (f : CallbackId) (d : List Byte) (s : State) (h : RunPre t s)
    (hc : canCallBack t.pt = true) : Invariant (callbackAction t f d s) := by
  unfold callbackAction
  split
  · exact call_inv t s f d h hc
  · exact settle_inv t _ s (settlePre_of_run t s h s.env s.trace (notMasked_eq hc) h.memory rfl)

/-- One action of a task keeps the invariant. -/
theorem runTask_inv (t : Task) (s : State) (h : RunPre t s) : Invariant (runTask t s) := by
  unfold runTask
  split
  · next hp =>
    unfold perform
    split
    · next hdr c n ha =>
      have hc := action_read ha
      unfold readAction
      dsimp only
      split
      · exact settle_inv t _ _ (settlePre_of_run t s h _ _ (notMasked_eq hc) (busRead_memWf _ _ s h.memory)
          (busRead_platMask ..))
      · split
        · exact wait_inv t s _ h hc _ _ (busRead_memWf _ _ s h.memory) (busRead_platMask ..) (by simp)
        · exact settle_inv t _ _ (settlePre_of_run t s h _ _ (notMasked_eq hc) (busRead_memWf _ _ s h.memory)
            (busRead_platMask ..))
    · next a b ha =>
      exact settle_inv t _ _ (settlePre_of_run t s h _ _ (action_write ha) (busWrite_memWf _ _ s h.memory)
          (busWrite_platMask ..))
    · next f ha => exact callbackAction_inv t f _ s h (action_callback ha)
    · next ha =>
      exact settle_inv t _ _ (settlePre_of_run t s h s.env s.trace (action_silent ha) h.memory rfl)
    · next ha =>
      refine settle_inv t _ _ ⟨h.memory, h.stack, h.stand, (action_mask ha).symm, fun _ => rfl, h.inPass, h.onePass, h.served, h.halted,
          h.statusHi⟩
    · next tok ha =>
      refine settle_inv t _ _ ⟨h.memory, h.stack, h.stand, (action_unmask ha).symm, fun hx => absurd hx (by simp),
          h.inPass, h.onePass, h.served, h.halted, h.statusHi⟩
  · next l d hp =>
    have hc : canCallBack t.pt = true := by have := h.coherent; simpa [Task.coherent, hp] using this
    unfold echoAction
    dsimp only
    split
    · exact settle_inv t _ _ (settlePre_of_run t s h _ _ (notMasked_eq hc) (busRead_memWf _ _ s h.memory)
        (busRead_platMask ..))
    · split
      · exact wait_inv t s _ h hc _ _ (busRead_memWf _ _ s h.memory) (busRead_platMask ..) (by simp)
      · exact settle_inv t _ _ (settlePre_of_run t s h _ _ (notMasked_eq hc) (busRead_memWf _ _ s h.memory)
          (busRead_platMask ..))
  · next d hp =>
    have hc : canCallBack t.pt = true := by have := h.coherent; simpa [Task.coherent, hp] using this
    exact callbackAction_inv t _ _ s h hc
  · next d hp =>
    have := h.notHeld
    simp [Task.isHeld, hp] at this

/-- The start of a pass, with no other in progress and no action due, keeps the invariant. -/
theorem startPass_inv (o : Owner) (ho : o ≠ .cmd) (s : State) (h : Invariant s) (hn : hasPass s.stack = false)
   (hd : s.served = false)
   (hs : mayStandOn { owner := o, pt := .pass .capFstat {}, phase := .ready } s.stack = true) (hm : s.seq.irqMasked
       = false) :
   Invariant (startPass o s) := by
  refine runTask_inv _ _ ⟨h.memory, h.stack, hs, rfl, rfl, hm, fun hx => absurd hx (by simp [hm]), fun _ => ?_, ?_,
      hd, h.halted, fun _ => by show (EventRec.zero.statusHi).toNat < _; decide⟩
  · cases o <;> simp_all [hasPass, Entry.isPass, Task.isPass]
  · have := passCount_zero hn
    simp only [passCount, enterPass_stack, List.countP_cons] at this ⊢
    split <;> omega

/-- An instruction keeps the invariant. -/
theorem exec_inv (i : Instr) (s t : State) (h : Invariant s) (hn : ∀ x b, s.stack ≠ .task x :: b) (he : exec i s =
    .next t) : Invariant t := by
  have hstand : ∀ x : Task, mayStandOn x s.stack = true := by
    intro x
    unfold mayStandOn
    split
    · next u b hu => exact absurd hu (hn u b)
    · rfl
    · rfl
  have hm : s.seq.irqMasked = false := by
    rw [h.masked]
    unfold topMasked
    split
    · next u b hu => exact absurd hu (hn u b)
    · rfl
    · rfl
  have hd : s.served = false := by
    cases hs : s.served with
    | false => rfl
    | true =>
      have := h.due hs
      unfold topIsTask at this
      split at this
      · next u b hu => exact absurd hu (hn u b)
      all_goals exact absurd this (by simp)
  obtain ⟨hh, eff⟩ := exec_effect i s t he
  cases eff with
  | answered r => exact ⟨h.memory, h.stack, h.masked, h.platform, h.inPass, h.onePass, h.due, h.halted, h.statusHi⟩
  | initialized hi => exact ⟨h.memory, h.stack, hm.symm.trans h.masked, fun hx => (nomatch hx), fun hx => (nomatch
      hx), h.onePass, h.due, fun hx => (nomatch hx), fun _ => by show (EventRec.zero.statusHi).toNat < _; decide⟩
  | deinitialized hi => exact ⟨h.memory, h.stack, hm.symm.trans h.masked, fun hx => (nomatch hx), fun hx =>
      (nomatch hx), h.onePass, h.due, fun hx => (nomatch hx), fun _ => by show (EventRec.zero.statusHi).toNat < _; decide⟩
  | set x hx hl => exact ⟨h.memory, h.stack, h.masked, h.platform, h.inPass, h.onePass, h.due, h.halted, h.statusHi⟩
  | halts hi hc hl => exact ⟨h.memory, h.stack, h.masked, h.platform, h.inPass, h.onePass, h.due, fun _ => hc, h.statusHi⟩
  | started p hp hl =>
    refine runTask_inv _ _ ⟨h.memory, h.stack, hstand _, rfl, rfl, ?_, h.platform, ?_, ?_, hd, h.halted, h.statusHi⟩
    · rw [hm]
      cases p with
      | crit q g => cases q <;> first | rfl | (simp [isEntry] at hp)
      | _ => rfl
    · intro hx; have := h.inPass hx; simp [hasPass] at this ⊢; exact .inr this
    · simpa [passCount, Entry.isPass, Task.isPass] using h.onePass
  | pass hi hl hp hn => exact startPass_inv _ (by simp) s h hn hd (hstand _) hm

/-- A boundary keeps the invariant. -/
theorem tick_inv (s : State) (h : Invariant s) : Invariant (tick s) :=
  ⟨tick_memWf s h.memory, by simpa using h.stack, by simpa using h.masked, fun hm =>
      (tick_platMask s (by simpa using hm)).trans (h.platform (by simpa using hm)), by simpa using h.inPass, by
      simpa using h.onePass, by simpa using h.due, by simpa using h.halted, by simpa using h.statusHi⟩

end Sys2Proof.Laws
end

