-- ==== Sys2Proof/Laws/PerInstr.lean ====
section
/-! SUPPORT. The family `RoundTrip`: decoding what the encoder writes for a well-formed instruction gives it back, one
lemma per constructor (30_encoding.md R105, R106, R112). -/

namespace Sys2Proof.Laws

/-! ## Named fast-command codes -/

/-- The row found for a key, in a table whose keys are distinct. -/
theorem find_zip {w : Nat} {α : Type} (ks : List (BitVec w)) (vs : List α) (rest : List (BitVec w × α))
    (k : BitVec w) (v : α) (hd : allDistinct ks = true) (hm : (k, v) ∈ ks.zip vs) :
    (ks.zip vs ++ rest).find? (fun p => p.1 == k) = some (k, v) := by
  induction ks generalizing vs with
  | nil => simp at hm
  | cons x xs ih =>
    cases vs with
    | nil => simp at hm
    | cons y ys =>
      simp only [allDistinct, Bool.and_eq_true, Bool.not_eq_true'] at hd
      simp only [List.zip_cons_cons, List.mem_cons, Prod.mk.injEq] at hm
      simp only [List.zip_cons_cons, List.cons_append, List.find?_cons]
      rcases hm with ⟨rfl, rfl⟩ | hm
      · simp
      · have hk : k ∈ xs := (List.of_mem_zip hm).1
        have hne : (x == k) = false := by
          have hx := hd.1
          simp only [List.contains_eq_mem, decide_eq_false_iff_not] at hx
          simp only [beq_eq_false_iff_ne, ne_eq]
          rintro rfl
          exact hx hk
        rw [hne]
        exact ih ys hd.2 hm

/-- A key that is not in the table is not found. -/
theorem find_zip_none {w : Nat} {α : Type} (ks : List (BitVec w)) (vs : List α) (k : BitVec w)
    (h : ks.contains k = false) : (ks.zip vs).find? (fun p => p.1 == k) = none := by
  simp only [List.contains_eq_mem, decide_eq_false_iff_not] at h
  simp only [List.find?_eq_none, beq_iff_eq, Prod.forall]
  rintro a b hab rfl
  exact h (List.of_mem_zip hab).1

/-- A catalogued code is read as its row. -/
theorem decodeFast_catalogued (c : Cfg) (hc : c.wf = true) (k : File) (i : Instr)
    (hm : (k, i) ∈ c.FC.codes.zip fcInstrs) : decodeFast c k = i := by
  have hd : allDistinct c.FC.codes = true := by
    simp only [Cfg.wf, Bool.and_eq_true] at hc
    exact hc.1.1.1.1.2
  simp only [decodeFast, fcRows, find_zip _ _ _ _ _ hd hm]

/-- A code outside the catalogue is read in the table of reserved rows. -/
theorem decodeFast_other (c : Cfg) (k : File) (h : c.FC.codes.contains k = false) :
    decodeFast c k =
      (match (reservedCodes.zip fcReservedInstrs).find? (fun p => p.1 == k) with
       | some p => p.2
       | none => .busFast k) := by
  have e : (fcRows c).find? (fun p => p.1 == k) =
      (reservedCodes.zip fcReservedInstrs).find? (fun p => p.1 == k) := by
    simp only [fcRows, List.find?_append, find_zip_none _ _ _ h, Option.none_or]
  exact congrArg (fun o : Option (File × Instr) => match o with | some p => p.2 | none => .busFast k) e

/-- A code with no name is `BUS.FAST`. -/
theorem decodeFast_unnamed (c : Cfg) (k : File) (h : unnamedCode c k = true) : decodeFast c k = .busFast k := by
  simp only [unnamedCode, Bool.and_eq_true, Bool.not_eq_true'] at h
  rw [decodeFast_other c k h.1, find_zip_none _ _ _ h.2]

/-- The reading of a fast-command frame. -/
theorem decode_fast (c : Cfg) (k : File) : decode c (frameReq (hdrFast k) []) = some (.instr (decodeFast c k)) := by
  simp only [decode, frameReq, decodeFrameReq, decodeFrame_fast, decodeBody_plain c _ .fast false k 0 [] (fun _ => rfl)
    (by simp [Kind.isModify]), frameInstr]

/-- The reading of a write frame with the short header. -/
theorem decode_wrShort (c : Cfg) (f : File) (body : List Byte) :
    decode c (frameReq (hdrShort true f) body) = some (.instr (.busWrShort f body)) := by
  simp only [decode, frameReq, decodeFrameReq, decodeFrame_short, if_true]
  rw [decodeBody_plain c _ .write false f 0 body (by simp) (by simp [Kind.isModify])]
  rfl

/-- The reading of a read frame with the short header. -/
theorem decode_rdShort (c : Cfg) (f : File) (len : Half) :
    decode c (readReq (hdrShort false f) len) = some (.instr (.busRdShort f len)) := by
  have h := decodeFrame_short c false false f []
  simp only [List.append_nil] at h
  simp only [decode, readReq, decodeFrameReq, h]
  rfl

/-- The reading of a write-class frame with the extended header. -/
theorem decode_wrExt (c : Cfg) (f : File) (s : Sub) (m : BitVec 2) (body : List Byte)
    (hm : (extKind true m).isModify = true → body.length = (extKind true m).modLen) :
    decode c (frameReq (hdrExt true f s m) body) =
      some (frameInstr c 0 { kind := extKind true m, ext := true, file := f, sub := s, payload := body, crcOk := true }) := by
  have hf : extKind true m ≠ .fast := by clear hm; revert m; decide
  simp only [decode, frameReq, decodeFrameReq, decodeFrame_ext c false true f s m body (.inl rfl)]
  rw [decodeBody_plain c _ _ true f s body (fun h => absurd h hf) hm]

/-- The reading of a read frame with the extended header. -/
theorem decode_rdExt (c : Cfg) (f : File) (s : Sub) (len : Half) :
    decode c (readReq (hdrExt false f s 0) len) = some (.instr (.busRdExt f s len)) := by
  have h := decodeFrame_ext c false false f s 0 [] (.inr rfl)
  simp only [List.append_nil] at h
  simp only [decode, readReq, decodeFrameReq, h]
  rfl

/-- The reading of a read pattern with a modify width (R104 (b)). -/
theorem decode_rdInvalid (c : Cfg) (f : File) (s : Sub) (m : BitVec 2) (hm : m ≠ 0) :
    decode c (readReq (hdrExt false f s m) 0) = some (invalidInstr (.readWithModifyWidth f s m)) := by
  have h := decodeFrame_ext_invalid c false f s m [] hm
  simp only [List.append_nil] at h
  simp only [decode, readReq, decodeFrameReq, h]

/-! ## Operand fields (30_encoding.md R112) -/

theorem low8 (v : BitVec 8) : (v.setWidth 32).extractLsb' 0 8 = v := by
  apply BitVec.eq_of_toNat_eq
  simp
  have := v.isLt
  omega

theorem low16 (v : BitVec 16) : (v.setWidth 32).extractLsb' 0 16 = v := by
  apply BitVec.eq_of_toNat_eq
  simp
  have := v.isLt
  omega

theorem low2 (v : BitVec 2) : (v.setWidth 32).extractLsb' 0 2 = v := by
  apply BitVec.eq_of_toNat_eq
  simp
  have := v.isLt
  omega

theorem low3 (v : BitVec 3) : (v.setWidth 32).extractLsb' 0 3 = v := by
  apply BitVec.eq_of_toNat_eq
  simp
  have := v.isLt
  omega

theorem low8of16 (v : BitVec 8) : (v.setWidth 16).extractLsb' 0 8 = v := by
  apply BitVec.eq_of_toNat_eq
  simp
  have := v.isLt
  omega

end Sys2Proof.Laws

namespace Sys2Proof.Laws.RoundTrip

/-- Under every well-formed configuration in which `i` is well-formed, decoding the words that encode `i` gives `i`. -/
def Statement (i : Instr) : Prop :=
  ∀ c : Cfg, c.wf = true → WellFormed c i = true → decode c (encode c i) = some (.instr i)

theorem busRdShort (file : File) (len : Half) : Statement (.busRdShort file len) := by
  intro c _ _
  exact decode_rdShort c file len

theorem busWrShort (file : File) (body : List Byte) : Statement (.busWrShort file body) := by
  intro c _ _
  exact decode_wrShort c file body

theorem busRdExt (file : File) (sub : Sub) (len : Half) : Statement (.busRdExt file sub len) := by
  intro c _ _
  exact decode_rdExt c file sub len

theorem busWrExt (file : File) (sub : Sub) (body : List Byte) : Statement (.busWrExt file sub body) := by
  intro c _ _
  exact decode_wrExt c file sub 0 body (by simp [extKind, Kind.isModify])

theorem busMod8 (file : File) (sub : Sub) (and or : Byte) : Statement (.busMod8 file sub and or) := by
  intro c _ _
  exact decode_wrExt c file sub 1 [and, or] (fun _ => rfl)

theorem busMod16 (file : File) (sub : Sub) (and or : Half) : Statement (.busMod16 file sub and or) := by
  intro c _ _
  refine (decode_wrExt c file sub 2 (le16 and ++ le16 or) (fun _ => rfl)).trans ?_
  have ha : (le16 and ++ le16 or).take 2 = le16 and := rfl
  have ho : (le16 and ++ le16 or).drop 2 = le16 or := rfl
  show some (Decoded.instr (.busMod16 file sub _ _)) = _
  rw [ha, ho, unLE16_le16, unLE16_le16]

theorem busMod32 (file : File) (sub : Sub) (and or : Word) : Statement (.busMod32 file sub and or) := by
  intro c _ _
  refine (decode_wrExt c file sub 3 (le32 and ++ le32 or) (fun _ => rfl)).trans ?_
  have ha : (le32 and ++ le32 or).take 4 = le32 and := rfl
  have ho : (le32 and ++ le32 or).drop 4 = le32 or := rfl
  show some (Decoded.instr (.busMod32 file sub _ _)) = _
  rw [ha, ho, unLE32_le32, unLE32_le32]

theorem busFast (code : File) : Statement (.busFast code) := by
  intro c _ hw
  rw [encode, decode_fast, decodeFast_unnamed c code hw]

theorem busInvalidFastRead (code : File) : Statement (.busInvalidFastRead code) := by
  intro c _ _
  simp only [encode, readReq, decode, decodeFrameReq, decodeFrame_fastRead, invalidInstr]

theorem busInvalidReadM1 (file : File) (sub : Sub) : Statement (.busInvalidReadM1 file sub) := by
  intro c _ _
  exact decode_rdInvalid c file sub 1 (by decide)

theorem busInvalidReadM2 (file : File) (sub : Sub) : Statement (.busInvalidReadM2 file sub) := by
  intro c _ _
  exact decode_rdInvalid c file sub 2 (by decide)

theorem busInvalidReadM3 (file : File) (sub : Sub) : Statement (.busInvalidReadM3 file sub) := by
  intro c _ _
  exact decode_rdInvalid c file sub 3 (by decide)

theorem fcTxrxoff : Statement .fcTxrxoff := by
  intro c hc _
  rw [encode, decode_fast, decodeFast_catalogued c hc _ .fcTxrxoff (by simp [FastCodes.codes, fcInstrs])]

theorem fcTx : Statement .fcTx := by
  intro c hc _
  rw [encode, decode_fast, decodeFast_catalogued c hc _ .fcTx (by simp [FastCodes.codes, fcInstrs])]

theorem fcRx : Statement .fcRx := by
  intro c hc _
  rw [encode, decode_fast, decodeFast_catalogued c hc _ .fcRx (by simp [FastCodes.codes, fcInstrs])]

theorem fcDtx : Statement .fcDtx := by
  intro c hc _
  rw [encode, decode_fast, decodeFast_catalogued c hc _ .fcDtx (by simp [FastCodes.codes, fcInstrs])]

theorem fcDrx : Statement .fcDrx := by
  intro c hc _
  rw [encode, decode_fast, decodeFast_catalogued c hc _ .fcDrx (by simp [FastCodes.codes, fcInstrs])]

theorem fcDtxTs : Statement .fcDtxTs := by
  intro c hc _
  rw [encode, decode_fast, decodeFast_catalogued c hc _ .fcDtxTs (by simp [FastCodes.codes, fcInstrs])]

theorem fcDrxTs : Statement .fcDrxTs := by
  intro c hc _
  rw [encode, decode_fast, decodeFast_catalogued c hc _ .fcDrxTs (by simp [FastCodes.codes, fcInstrs])]

theorem fcDtxRs : Statement .fcDtxRs := by
  intro c hc _
  rw [encode, decode_fast, decodeFast_catalogued c hc _ .fcDtxRs (by simp [FastCodes.codes, fcInstrs])]

theorem fcDrxRs : Statement .fcDrxRs := by
  intro c hc _
  rw [encode, decode_fast, decodeFast_catalogued c hc _ .fcDrxRs (by simp [FastCodes.codes, fcInstrs])]

theorem fcDtxRef : Statement .fcDtxRef := by
  intro c hc _
  rw [encode, decode_fast, decodeFast_catalogued c hc _ .fcDtxRef (by simp [FastCodes.codes, fcInstrs])]

theorem fcDrxRef : Statement .fcDrxRef := by
  intro c hc _
  rw [encode, decode_fast, decodeFast_catalogued c hc _ .fcDrxRef (by simp [FastCodes.codes, fcInstrs])]

theorem fcCcaTx : Statement .fcCcaTx := by
  intro c hc _
  rw [encode, decode_fast, decodeFast_catalogued c hc _ .fcCcaTx (by simp [FastCodes.codes, fcInstrs])]

theorem fcTxW4r : Statement .fcTxW4r := by
  intro c hc _
  rw [encode, decode_fast, decodeFast_catalogued c hc _ .fcTxW4r (by simp [FastCodes.codes, fcInstrs])]

theorem fcDtxW4r : Statement .fcDtxW4r := by
  intro c hc _
  rw [encode, decode_fast, decodeFast_catalogued c hc _ .fcDtxW4r (by simp [FastCodes.codes, fcInstrs])]

theorem fcDtxTsW4r : Statement .fcDtxTsW4r := by
  intro c hc _
  rw [encode, decode_fast, decodeFast_catalogued c hc _ .fcDtxTsW4r (by simp [FastCodes.codes, fcInstrs])]

theorem fcDtxRsW4r : Statement .fcDtxRsW4r := by
  intro c hc _
  rw [encode, decode_fast, decodeFast_catalogued c hc _ .fcDtxRsW4r (by simp [FastCodes.codes, fcInstrs])]

theorem fcDtxRefW4r : Statement .fcDtxRefW4r := by
  intro c hc _
  rw [encode, decode_fast, decodeFast_catalogued c hc _ .fcDtxRefW4r (by simp [FastCodes.codes, fcInstrs])]

theorem fcCcaTxW4r : Statement .fcCcaTxW4r := by
  intro c hc _
  rw [encode, decode_fast, decodeFast_catalogued c hc _ .fcCcaTxW4r (by simp [FastCodes.codes, fcInstrs])]

theorem fcDbToggle : Statement .fcDbToggle := by
  intro c hc _
  rw [encode, decode_fast, decodeFast_catalogued c hc _ .fcDbToggle (by simp [FastCodes.codes, fcInstrs])]

theorem fcSemaReq : Statement .fcSemaReq := by
  intro c hc _
  rw [encode, decode_fast, decodeFast_catalogued c hc _ .fcSemaReq (by simp [FastCodes.codes, fcInstrs])]

theorem fcSemaRel : Statement .fcSemaRel := by
  intro c hc _
  rw [encode, decode_fast, decodeFast_catalogued c hc _ .fcSemaRel (by simp [FastCodes.codes, fcInstrs])]

theorem fcSemaForce : Statement .fcSemaForce := by
  intro c hc _
  rw [encode, decode_fast, decodeFast_catalogued c hc _ .fcSemaForce (by simp [FastCodes.codes, fcInstrs])]

theorem fcSoftResetSem : Statement .fcSoftResetSem := by
  intro c hc _
  rw [encode, decode_fast, decodeFast_catalogued c hc _ .fcSoftResetSem (by simp [FastCodes.codes, fcInstrs])]

theorem fcSoftResetNoSem : Statement .fcSoftResetNoSem := by
  intro c hc _
  rw [encode, decode_fast, decodeFast_catalogued c hc _ .fcSoftResetNoSem (by simp [FastCodes.codes, fcInstrs])]

theorem fcEnterSleep : Statement .fcEnterSleep := by
  intro c hc _
  rw [encode, decode_fast, decodeFast_catalogued c hc _ .fcEnterSleep (by simp [FastCodes.codes, fcInstrs])]

theorem fcReserved12 : Statement .fcReserved12 := by
  intro c _ hw
  have h : c.FC.codes.contains 0x12#5 = false := by simpa [WellFormed] using hw
  rw [encode, decode_fast, decodeFast_other c _ h]
  rfl

theorem fcReserved17 : Statement .fcReserved17 := by
  intro c _ hw
  have h : c.FC.codes.contains 0x17#5 = false := by simpa [WellFormed] using hw
  rw [encode, decode_fast, decodeFast_other c _ h]
  rfl

theorem fcReserved1B : Statement .fcReserved1B := by
  intro c _ hw
  have h : c.FC.codes.contains 0x1B#5 = false := by simpa [WellFormed] using hw
  rw [encode, decode_fast, decodeFast_other c _ h]
  rfl

theorem fcReserved1C : Statement .fcReserved1C := by
  intro c _ hw
  have h : c.FC.codes.contains 0x1C#5 = false := by simpa [WellFormed] using hw
  rw [encode, decode_fast, decodeFast_other c _ h]
  rfl

theorem fcReserved1D : Statement .fcReserved1D := by
  intro c _ hw
  have h : c.FC.codes.contains 0x1D#5 = false := by simpa [WellFormed] using hw
  rw [encode, decode_fast, decodeFast_other c _ h]
  rfl

theorem fcReserved1E : Statement .fcReserved1E := by
  intro c _ hw
  have h : c.FC.codes.contains 0x1E#5 = false := by simpa [WellFormed] using hw
  rw [encode, decode_fast, decodeFast_other c _ h]
  rfl

theorem fcReserved1F : Statement .fcReserved1F := by
  intro c _ hw
  have h : c.FC.codes.contains 0x1F#5 = false := by simpa [WellFormed] using hw
  rw [encode, decode_fast, decodeFast_other c _ h]
  rfl

theorem init : Statement .init := by
  intro c _ _
  rfl

theorem deinit : Statement .deinit := by
  intro c _ _
  rfl

theorem setChannel (ch : Byte) : Statement (.setChannel ch) := by
  intro c _ _
  show some (Decoded.instr (.setChannel ((ch.setWidth 32).extractLsb' 0 8))) = _
  rw [low8]

theorem setSts (mode len : Byte) : Statement (.setSts mode len) := by
  intro c _ _
  show some (Decoded.instr (.setSts ((mode.setWidth 32).extractLsb' 0 8) ((len.setWidth 32).extractLsb' 0 8))) = _
  rw [low8, low8]

theorem setCrcMode (m : BitVec 2) : Statement (.setCrcMode m) := by
  intro c _ _
  show some (Decoded.instr (.setCrcMode ((m.setWidth 32).extractLsb' 0 2))) = _
  rw [low2]

theorem setFceDis (b : Bool) : Statement (.setFceDis b) := by
  intro c _ _
  cases b <;> rfl

theorem setZeroLenOk (b : Bool) : Statement (.setZeroLenOk b) := by
  intro c _ _
  cases b <;> rfl

theorem setLongFrames (b : Bool) : Statement (.setLongFrames b) := by
  intro c _ _
  cases b <;> rfl

theorem setCallback (id : BitVec 3) (present : Bool) : Statement (.setCallback id present) := by
  intro c _ _
  show some (Decoded.instr (.setCallback ((id.setWidth 32).extractLsb' 0 3) ((flagWord present).getLsbD 0))) = _
  rw [low3]
  cases present <;> rfl

theorem irqSrcModify (and or : Word) : Statement (.irqSrcModify and or) := by
  intro c _ _
  rfl

theorem transact (addr : Word) (offset len mode : Half) (fast : Bool) (buf : List Byte) : Statement (.transact addr offset len mode fast buf) := by
  intro c _ _
  rfl

theorem read8 (addr : Word) (offset : Half) : Statement (.read8 addr offset) := by
  intro c _ _
  rfl

theorem read16 (addr : Word) (offset : Half) : Statement (.read16 addr offset) := by
  intro c _ _
  rfl

theorem read32 (addr : Word) (offset : Half) : Statement (.read32 addr offset) := by
  intro c _ _
  rfl

theorem write8 (addr : Word) (offset : Half) (v : Byte) : Statement (.write8 addr offset v) := by
  intro c _ _
  show some (Decoded.instr (.write8 addr offset ((v.setWidth 32).extractLsb' 0 8))) = _
  rw [low8]

theorem write16 (addr : Word) (offset : Half) (v : Half) : Statement (.write16 addr offset v) := by
  intro c _ _
  show some (Decoded.instr (.write16 addr offset ((v.setWidth 32).extractLsb' 0 16))) = _
  rw [low16]

theorem write32 (addr : Word) (offset : Half) (v : Word) : Statement (.write32 addr offset v) := by
  intro c _ _
  rfl

theorem modify8 (addr : Word) (offset : Half) (and or : Byte) : Statement (.modify8 addr offset and or) := by
  intro c _ _
  show some (Decoded.instr (.modify8 addr offset ((and.setWidth 32).extractLsb' 0 8) ((or.setWidth 32).extractLsb' 0 8))) = _
  rw [low8, low8]

theorem modify16 (addr : Word) (offset : Half) (and or : Half) : Statement (.modify16 addr offset and or) := by
  intro c _ _
  show some (Decoded.instr (.modify16 addr offset ((and.setWidth 32).extractLsb' 0 16) ((or.setWidth 32).extractLsb' 0 16))) = _
  rw [low16, low16]

theorem modify32 (addr : Word) (offset : Half) (and or : Word) : Statement (.modify32 addr offset and or) := by
  intro c _ _
  rfl

theorem fastcmd (addr : Word) : Statement (.fastcmd addr) := by
  intro c _ _
  rfl

theorem startTx (mode : Byte) : Statement (.startTx mode) := by
  intro c _ _
  show some (Decoded.instr (.startTx ((mode.setWidth 16).extractLsb' 0 8))) = _
  rw [low8of16]

theorem startRx (mode : Byte) : Statement (.startRx mode) := by
  intro c _ _
  show some (Decoded.instr (.startRx ((mode.setWidth 16).extractLsb' 0 8))) = _
  rw [low8of16]

theorem forceTrxOff : Statement .forceTrxOff := by
  intro c _ _
  rfl

theorem dblEnable (autoReenable : Bool) : Statement (.dblEnable autoReenable) := by
  intro c _ _
  cases autoReenable <;> rfl

theorem dblDisable : Statement .dblDisable := by
  intro c _ _
  rfl

theorem signalBufferFree : Statement .signalBufferFree := by
  intro c _ _
  rfl

theorem isrPass : Statement .isrPass := by
  intro c _ _
  rfl

theorem cmdReserved (op : Byte) : Statement (.cmdReserved op) := by
  intro c _ hw
  have h : ∀ o : Byte, opCodes.contains o = false → decodeCmd { op := o } = .cmdReserved o := by decide +kernel
  exact congrArg (fun i => some (Decoded.instr i)) (h op (by simpa [WellFormed] using hw))

end Sys2Proof.Laws.RoundTrip
end

