-- ==== Sys2Proof/Laws/Runs.lean ====
section
/-! SUPPORT. How the steps of an operation make up its pseudocode: one lemma per kind of action, from a task that is about
to take it to the pseudocode of the rest. -/

namespace Sys2Proof.Laws

open Sys2Proof.Machine

/-- Nothing is scheduled, and the machine steps. -/
structure Quiet (s : State) : Prop where
  cfg : s.cfg.wf = true
  halted : s.seq.halted = false
  sched : s.sched = []
  served : s.served = false

/-- From `s` the operation in progress answers `y.1` and leaves `y.2`. -/
def Ends (s : State) (y : Result × State) : Prop :=
  ∃ k, Sys2Proof.core.run k s = .next { y.2 with trace := .answer y.1 :: y.2.trace }

theorem ends_answer (r : Result) (s : State) : Ends (answer r s) (r, s) :=
  ⟨0, rfl⟩

theorem ends_step (s t : State) (y : Result × State) (hs : step s = .next t) (h : Ends t y) : Ends s y := by
  obtain ⟨k, hk⟩ := h
  refine ⟨k + 1, ?_⟩
  have hs' : Sys2Proof.core.step s = .next t := hs
  simp only [Host.Core.run, hs', hk]

/-- A waiting task takes its next action. -/
theorem ends_park (t : Task) (s : State) (y : Result × State) (hq : Quiet s) (h : Ends (runTask t s) y) :
    Ends (park t s) y :=
  ends_step _ _ y (step_task (park t s) t s.stack hq.cfg hq.halted hq.sched rfl) (by
    have : ({ park t s with stack := s.stack, served := false } : State) = s := by
      rw [← hq.served]; rfl
    rw [this]; exact h)

/-- The task of the CMD port at a point. -/
abbrev cmdTask (p : Point) : Task := { owner := .cmd, pt := p, phase := .ready }

/-- The requested pass at a point. -/
abbrev passTask (p : Point) : Task := { owner := .passCmd, pt := p, phase := .ready }

/-- The end of an operation of the CMD port. -/
theorem ends_settle_done (p : Point) (ph : Phase) (r : ActResult) (res : Result) (s s' : State)
    (h : resumeAt p r s = (s', .done res)) :
    Ends (settle { owner := .cmd, pt := p, phase := ph } r s) (res, s') := by
  simp only [settle, h]
  exact ends_answer res s'

/-- The task goes on at the next point. -/
theorem ends_settle_goto (t : Task) (q : Point) (r : ActResult) (s s' : State) (y : Result × State) (hq : Quiet s')
    (h : resumeAt t.pt r s = (s', .goto q)) (he : Ends (runTask { t with pt := q, phase := .ready } s') y) :
    Ends (settle t r s) y := by
  simp only [settle, h]
  exact ends_park _ _ y hq he

/-- A write action is `Whole.send`: `k` is what comes after it, and a failure ends the operation as `finish` does. -/
theorem ends_write (t : Task) (hdr body : List Byte) (s : State) (k : Whole) (ht : t.phase = .ready)
    (ha : actionOf t.pt s = .write hdr body) (hk : Ends (settle t .ok (busWrite hdr body s).2) (k (busWrite hdr body s).2))
    (hf : Ends (settle t .failed (busWrite hdr body s).2) (.err .busError, (busWrite hdr body s).2)) :
    Ends (runTask t s) (Whole.send hdr body k s) := by
  unfold runTask Whole.send
  rw [ht]
  simp only [ha, perform]
  rcases h : busWrite hdr body s with ⟨b, s'⟩
  rw [h] at hk hf
  cases b
  · exact hf
  · exact hk

/-- Nothing of the block differs but its messages; the environment keeps the chip's CRC configuration. -/
structure SameBlock (s t : State) : Prop where
  cfg : t.cfg = s.cfg
  ctx : t.ctx = s.ctx
  evt : t.evt = s.evt
  seq : t.seq = s.seq
  stack : t.stack = s.stack
  served : t.served = s.served
  sched : t.sched = s.sched
  crcOn : t.env.chip.crcOn = s.env.chip.crcOn

theorem SameBlock.trans {s t u : State} (h : SameBlock s t) (k : SameBlock t u) : SameBlock s u :=
  ⟨k.cfg.trans h.cfg, k.ctx.trans h.ctx, k.evt.trans h.evt, k.seq.trans h.seq, k.stack.trans h.stack,
    k.served.trans h.served, k.sched.trans h.sched, k.crcOn.trans h.crcOn⟩

theorem SameBlock.quiet {s t : State} (h : SameBlock s t) (q : Quiet s) : Quiet t :=
  ⟨h.cfg ▸ q.cfg, h.seq ▸ q.halted, h.sched ▸ q.sched, h.served ▸ q.served⟩

theorem sameBlock_busRead (hdr : List Byte) (n : Nat) (s : State) : SameBlock s (busRead hdr n s).2 :=
  ⟨rfl, rfl, rfl, rfl, rfl, rfl, rfl, busRead_crcOn ..⟩

theorem sameBlock_busWrite (hdr body : List Byte) (s : State) : SameBlock s (busWrite hdr body s).2 :=
  ⟨rfl, rfl, rfl, rfl, rfl, rfl, rfl, busWrite_crcOn ..⟩

/-- A read action is `Whole.fetchHdr`, when no alarm can be raised: `k d` is what comes after it with the bytes `d`. -/
theorem ends_read (t : Task) (hdr : List Byte) (checked : Bool) (P : Prop) [Decidable P] (n : Nat) (s : State)
    (k : List Byte → Whole) (ht : t.phase = .ready) (ha : actionOf t.pt s = .read hdr checked n) (hP : checked = true ↔ P)
    (hq : Quiet s) (hcb : NoAlarm s)
    (hk : ∀ d (s' : State), SameBlock s s' → ∀ ph, Ends (settle { t with phase := ph } (.data d) s') (k d s'))
    (hf : ∀ s' : State, SameBlock s s' → ∀ ph, Ends (settle { t with phase := ph } .failed s') (.err .busError, s')) :
    Ends (runTask t s) (Whole.fetchHdr hdr P n k s) := by
  unfold runTask
  rw [ht]
  simp only [ha, perform, readAction, Whole.fetchHdr]
  have hb1 := sameBlock_busRead hdr n s
  rcases h : busRead hdr n s with ⟨d, s1⟩
  rw [h] at hb1
  change SameBlock s s1 at hb1
  cases d with
  | none => exact hf s1 hb1 t.phase
  | some d =>
    dsimp only
    by_cases hc : s.ctx.crcMode = .writeRead ∧ P
    · have hck : checksRead checked s = true := by simp [checksRead, hc.1, hP.2 hc.2]
      rw [if_pos hck, if_pos hc]
      refine ends_park _ s1 _ (hb1.quiet hq) ?_
      simp only [runTask, echoAction, echoHdr, hb1.cfg]
      have hb2 := sameBlock_busRead (accessHdr .read s.cfg.REG.CRC_ECHO 0) 1 s1
      rcases h2 : busRead (accessHdr .read s.cfg.REG.CRC_ECHO 0) 1 s1 with ⟨e, s2⟩
      rw [h2] at hb2
      change SameBlock s1 s2 at hb2
      cases e with
      | none => exact hf s2 (hb1.trans hb2) _
      | some e =>
        have hno : (crc8 s.cfg (hdr ++ d) != byteAt e 0 && s1.ctx.has .onSpiReadCrcError) = false := by
          rw [hb1.ctx, hcb.resolve_right (by simp [hc.1]), Bool.and_false]
        simp only [hno]
        exact hk d s2 (hb1.trans hb2) _
    · have hck : checksRead checked s = false := by
        rw [← Bool.not_eq_true]
        intro hx
        simp only [checksRead, Bool.and_eq_true, beq_iff_eq] at hx
        exact hc ⟨hx.2, hP.1 hx.1⟩
      rw [if_neg (by simp [hck]), if_neg hc]
      exact hk d s1 hb1 t.phase

/-- A silent action. -/
theorem ends_silent (t : Task) (s : State) (y : Result × State) (ht : t.phase = .ready) (ha : actionOf t.pt s = .silent)
    (h : Ends (settle t .ok s) y) : Ends (runTask t s) y := by
  unfold runTask
  rw [ht]
  simp only [ha, perform]
  exact h

/-- A callback that is absent is skipped. -/
theorem ends_absent (t : Task) (f : CallbackId) (s : State) (y : Result × State) (ht : t.phase = .ready)
    (ha : actionOf t.pt s = .callback f) (hf : s.ctx.has f = false) (h : Ends (settle t (.data []) s) y) :
    Ends (runTask t s) y := by
  unfold runTask
  rw [ht]
  simp only [ha, perform, callbackAction, hf]
  exact h

end Sys2Proof.Laws
end

