-- ==== Sys2Proof/Laws/Steps.lean ====
section
/-! SUPPORT. The frame of one action and of one instruction: what can differ afterwards. -/

namespace Sys2Proof.Laws

open Sys2Proof.Machine

/-- What an action of a task leaves: only `ctx.dbl`, the record, the environment, `seq.irq_masked`, `seq.in_pass` (which it
can only clear), the stack above what was there, and at most two messages, one of them of the bus. -/
structure TaskFrame (s t : State) : Prop where
  cfg : t.cfg = s.cfg
  ctx : t.ctx = { s.ctx with dbl := t.ctx.dbl }
  inputs : t.inputs = s.inputs
  sched : t.sched = s.sched
  halted : t.seq.halted = s.seq.halted
  inPass : t.seq.inPass = true → s.seq.inPass = true
  stack : ∃ w, t.stack = w ++ s.stack
  trace : ∃ es, t.trace = es ++ s.trace ∧ es.length ≤ 2 ∧ (es.filter Event.isBus).length ≤ 1

/-- The end of an action makes at most one message, an answer. -/
theorem settle_frame (x : Task) (r : ActResult) (s : State) :
    (settle x r s).cfg = s.cfg ∧ (settle x r s).ctx = { s.ctx with dbl := (settle x r s).ctx.dbl } ∧
    (settle x r s).inputs = s.inputs ∧ (settle x r s).sched = s.sched ∧
    (settle x r s).seq = { s.seq with inPass := (settle x r s).seq.inPass } ∧
    ((settle x r s).seq.inPass = true → s.seq.inPass = true) ∧ (settle x r s).env = s.env ∧
    ((settle x r s).stack = s.stack ∨ ∃ p, (settle x r s).stack = .task { x with pt := p, phase := .ready } :: s.stack) ∧
    ((settle x r s).trace = s.trace ∨ ∃ a, (settle x r s).trace = .answer a :: s.trace) := by
  have ho := resumeAt_only x.pt r s
  rcases settle_cases x r s with ⟨p, s', hr, he⟩ | ⟨res, s', hr, he⟩ <;> rw [he] <;> rw [hr] at ho <;> dsimp only at ho <;>
    rw [ho]
  · refine ⟨rfl, rfl, rfl, rfl, rfl, id, rfl, .inr ⟨p, rfl⟩, .inl rfl⟩
  · cases x.owner
    · exact ⟨rfl, rfl, rfl, rfl, rfl, id, rfl, .inl rfl, .inr ⟨_, rfl⟩⟩
    · exact ⟨rfl, rfl, rfl, rfl, rfl, nofun, rfl, .inl rfl, .inr ⟨_, rfl⟩⟩
    · exact ⟨rfl, rfl, rfl, rfl, rfl, nofun, rfl, .inl rfl, .inl rfl⟩

theorem isBus_length (es : List Event) (h : es.length ≤ 1) : (es.filter Event.isBus).length ≤ 1 :=
  Nat.le_trans (List.length_filter_le _ _) h

/-- The end of an action after the message of the action. -/
theorem settle_taskFrame (x : Task) (r : ActResult) (s : State) (e : Env) (m : Bool) (es : List Event)
    (hes : es.length ≤ 1) :
    TaskFrame s (settle x r { s with env := e, seq := { s.seq with irqMasked := m }, trace := es ++ s.trace }) := by
  obtain ⟨h1, h2, h3, h4, h5, h6, _, h7, h8⟩ :=
    settle_frame x r { s with env := e, seq := { s.seq with irqMasked := m }, trace := es ++ s.trace }
  refine ⟨h1, h2, h3, h4, by rw [h5], h6, ?_, ?_⟩
  · rcases h7 with h | ⟨p, h⟩
    · exact ⟨[], h⟩
    · exact ⟨[_], h⟩
  · rcases h8 with h | ⟨a, h⟩
    · exact ⟨es, h, by omega, isBus_length es hes⟩
    · exact ⟨.answer a :: es, h, by simp; omega, by simpa [Event.isBus] using isBus_length es hes⟩

theorem runTask_frame (x : Task) (s : State) : TaskFrame s (runTask x s) := by
  have heff := runTask_effect x s
  revert heff
  generalize runTask x s = t
  intro heff
  cases heff with
  | settled r e m es hes => exact settle_taskFrame x r s e m es hes
  | waiting ph e es hes _ =>
    exact ⟨rfl, rfl, rfl, rfl, rfl, id, ⟨[_], rfl⟩, es, rfl, by omega, isBus_length es hes⟩
  | called f d => exact ⟨rfl, rfl, rfl, rfl, rfl, id, ⟨[_, _], rfl⟩, [_], rfl, by simp, by simp [Event.isBus]⟩

/-- What a started pass leaves. -/
theorem startPass_frame (o : Owner) (s : State) :
    (startPass o s).cfg = s.cfg ∧ (startPass o s).ctx = { s.ctx with dbl := (startPass o s).ctx.dbl } ∧
    (startPass o s).inputs = s.inputs ∧ (startPass o s).sched = s.sched ∧
    (startPass o s).seq.halted = s.seq.halted ∧ (∃ w, (startPass o s).stack = w ++ s.stack) ∧
    ∃ es, (startPass o s).trace = es ++ s.trace ∧ es.length ≤ 2 ∧ (es.filter Event.isBus).length ≤ 1 :=
  let h := runTask_frame { owner := o, pt := .pass .capFstat {}, phase := .ready } (enterPass s)
  ⟨h.cfg, h.ctx, h.inputs, h.sched, h.halted, h.stack, h.trace⟩

/-- No instruction touches what is in progress below it, the inputs, the schedule or the configuration, and it makes at
most two messages, one of them of the bus. -/
theorem exec_frame (i : Instr) (s t : State) (h : exec i s = .next t) :
    t.cfg = s.cfg ∧ t.inputs = s.inputs ∧ t.sched = s.sched ∧ (∃ w, t.stack = w ++ s.stack) ∧
    ∃ es, t.trace = es ++ s.trace ∧ es.length ≤ 2 ∧ (es.filter Event.isBus).length ≤ 1 := by
  have one : ∀ r : Result, ∃ es : List Event, Event.answer r :: s.trace = es ++ s.trace ∧ es.length ≤ 2 ∧
      (es.filter Event.isBus).length ≤ 1 := fun r => ⟨[.answer r], rfl, by simp, by simp [Event.isBus]⟩
  cases (exec_effect i s t h).2 with
  | answered r => exact ⟨rfl, rfl, rfl, ⟨[], rfl⟩, one r⟩
  | initialized => exact ⟨rfl, rfl, rfl, ⟨[], rfl⟩, one _⟩
  | deinitialized => exact ⟨rfl, rfl, rfl, ⟨[], rfl⟩, one _⟩
  | set => exact ⟨rfl, rfl, rfl, ⟨[], rfl⟩, one _⟩
  | halts => exact ⟨rfl, rfl, rfl, ⟨[], rfl⟩, [], rfl, by simp, by simp⟩
  | started p =>
    have hf := runTask_frame { owner := .cmd, pt := p, phase := .ready } s
    exact ⟨hf.cfg, hf.inputs, hf.sched, hf.stack, hf.trace⟩
  | pass =>
    obtain ⟨h1, _, h2, h3, _, h4, h5⟩ := startPass_frame .passCmd s
    exact ⟨h1, h2, h3, h4, h5⟩

end Sys2Proof.Laws
end

