-- ==== Sys2Proof/Tests/Slice0.lean ====
section
/-! SUPPORT. The model's own tests. Expected results are from the tables and vectors of the spec: 42_fastcmd.md R202,
30_encoding.md R112, 95_test_vectors.md. After them, a state and operands that meet the hypotheses of every statement. -/

namespace Sys2Proof.Tests

open Sys2Proof.Machine

set_option Elab.async false

/-! ## Helpers -/

/-- A machine after `init`, with the reference responder. -/
def base : State :=
  { State.reset with ctx := { Ctx.powerOn with live := true }, env := { Env.initial with responder := .chipRef } }

/-- The same with scripted answers of the port. -/
def scripted (rs : List Reply) : State :=
  { base with env := { base.env with replies := rs } }

/-- The same with all callbacks present. -/
def loud : State :=
  { base with ctx := { base.ctx with cb := 0xFF } }

/-- The CRC mode of a machine and its chip, which agree (30_encoding.md R99). -/
def inMode (m : CrcMode) (s : State) : State :=
  { s with
    ctx := { s.ctx with crcMode := m }
    env := { s.env with chip := { s.env.chip with crcOn := m != .off } } }

/-- The chip's CRC configuration alone. -/
def chipCrc (b : Bool) (s : State) : State :=
  { s with env := { s.env with chip := { s.env.chip with crcOn := b } } }

/-- The buffer-access state of a machine. -/
def onBuffer (d : Dbl) (s : State) : State :=
  { s with ctx := { s.ctx with dbl := d } }

/-- The chip's bytes of a machine. -/
def holding (cells : Memory) (s : State) : State :=
  { s with env := { s.env with chip := { s.env.chip with mem := cells } } }

/-- An operation in progress. -/
def doing (o : Owner) (p : Point) (s : State) : State :=
  { s with stack := [.task { owner := o, pt := p, phase := .ready }] }

/-- A requested pass in progress. -/
def inPass (p : PassPt) (v : Snap) (s : State) : State :=
  { doing .passCmd (.pass p v) s with seq := { s.seq with inPass := true } }

/-- An input waits. -/
def given (inp : Input) (s : State) : State :=
  { s with inputs := [inp] }

/-- The outcome is a next state. -/
def goesOn (o : Host.Outcome State Fault Refusal) : Bool :=
  match o with
  | .next _ => true
  | .fault _ | .refused _ => false

/-- The next state, if there is one. -/
def stateOf (o : Host.Outcome State Fault Refusal) : State :=
  match o with
  | .next t => t
  | .fault _ | .refused _ => State.reset

theorem eq_next {o : Host.Outcome State Fault Refusal} (h : goesOn o = true) : o = .next (stateOf o) := by
  cases o with
  | next t => rfl
  | fault f => exact absurd h (by simp [goesOn])
  | refused r => exact absurd h (by simp [goesOn])

/-- The messages of one instruction, oldest first; none where it stops. -/
def sent (i : Instr) (s : State) : Option (List Event) :=
  if goesOn (exec i s) then some (stateOf (exec i s)).trace.reverse else none

/-- The messages of one step. -/
def stepSent (s : State) : Option (List Event) :=
  if goesOn (step s) then some (stateOf (step s)).trace.reverse else none

/-- A write frame without trailer that succeeded. -/
def wr (hdr body : List Byte) : Event :=
  .busWrite hdr body none true

/-- The answer `Ok`. -/
def okay : Event :=
  .answer (.ok .unit)

/-- What a frame's bytes are read as. -/
def reads (bytes : List Byte) (rlen : Half) : Option Decoded :=
  decode Config.RM0 (.frame { bytes, rlen })

/-! ## Well-formedness: an ill-formed term for each check -/

theorem test_wf_rm0 : Config.RM0.wf = true := by decide +kernel

theorem test_wf_file_bits : Cfg.wf { Config.RM0 with FILE_BITS := 6 } = false := by decide +kernel

theorem test_wf_sub_bits : Cfg.wf { Config.RM0 with SUB_BITS := 8 } = false := by decide +kernel

theorem test_wf_file_shift : Cfg.wf { Config.RM0 with FILE_SHIFT := 8 } = false := by decide +kernel

/-- R11 names no bound for `MAX_LEN`; a length is checked against it and against its 16 bits (40_codec.md R140, R141). -/
theorem test_wf_max_len :
    Cfg.wf { Config.RM0 with MAX_LEN := 0x3200 } = true ∧
    WellFormed { Config.RM0 with MAX_LEN := 0x3200 } (.busRdShort 0 0x3100) = true ∧
    WellFormed Config.RM0 (.busRdShort 0 0x3100) = false ∧
    lenWf { Config.RM0 with MAX_LEN := 0x20000 } 0x10000 = false := by decide +kernel

theorem test_wf_codes_distinct :
    Cfg.wf { Config.RM0 with FC := { Config.RM0.FC with TX := Config.RM0.FC.RX } } = false := by decide +kernel

theorem test_wf_hpdwarn_one_bit :
    Cfg.wf { Config.RM0 with M := { Config.RM0.M with HPDWARN := 0x0C000000 } } = false := by decide +kernel

theorem test_wf_hpdwarn_upper_byte :
    Cfg.wf { Config.RM0 with M := { Config.RM0.M with HPDWARN := 0x00800000 } } = false := by decide +kernel

theorem test_wf_sub_status_low_nibble :
    Cfg.wf { Config.RM0 with M := { Config.RM0.M with DB_FR := 0x10 } } = false := by decide +kernel

theorem test_wf_sub_status_distinct :
    Cfg.wf { Config.RM0 with M := { Config.RM0.M with DB_FR := 0x01 } } = false := by decide +kernel

theorem test_wf_sub_status_clear :
    Cfg.wf { Config.RM0 with M := { Config.RM0.M with DB_CLR := 0xFF } } = false := by decide +kernel

theorem test_wf_echo_apart :
    Cfg.wf { Config.RM0 with REG := { Config.RM0.REG with CRC_ECHO := 0x00004C } } = false := by decide +kernel

theorem test_wf_status_hi_width : Cfg.wf { Config.RM0 with STATUS_HI_WIDTH := 24 } = false := by decide +kernel

theorem test_wf_read_length :
    WellFormed Config.RM0 (.busRdShort 1 0) = false ∧ WellFormed Config.RM0 (.busRdExt 1 2 0x3100) = false ∧
      WellFormed Config.RM0 (.busRdExt 1 2 0x30FF) = true := by decide +kernel

theorem test_wf_write_length :
    WellFormed Config.RM0 (.busWrShort 1 []) = false ∧ WellFormed Config.RM0 (.busWrExt 1 2 []) = false ∧
      WellFormed Config.RM0 (.busWrExt 1 2 [0xAA]) = true := by decide +kernel

theorem test_wf_named_code :
    WellFormed Config.RM0 (.busFast 0x13) = false ∧ WellFormed Config.RM0 (.busFast 0x12) = false := by decide +kernel

/-- With a catalogue code moved to `0x12`, that code is no reserved row, and the old one has no name. -/
theorem test_wf_moved_code :
    WellFormed { Config.RM0 with FC := { Config.RM0.FC with DB_TOGGLE := 0x12 } } .fcReserved12 = false ∧
      WellFormed { Config.RM0 with FC := { Config.RM0.FC with DB_TOGGLE := 0x12 } } (.busFast 0x13) = true := by
  decide +kernel

theorem test_wf_reserved_op :
    WellFormed Config.RM0 (.cmdReserved 0x10) = false ∧ WellFormed Config.RM0 (.cmdReserved 0x0A) = true := by
  decide +kernel

/-! ## Decoding: words written out from the spec's encodings -/

/-- 95_test_vectors.md sections 2 and 4. -/
theorem test_decode_bus_frames :
    reads [0x3E] 1 = some (.instr (.busRdShort 0x1F 1)) ∧
    reads [0x36] 1 = some (.instr (.busRdShort 0x1B 1)) ∧
    reads [0x80, 0x11, 0x22] 0 = some (.instr (.busWrShort 0x00 [0x11, 0x22])) ∧
    reads [0xB6, 0x01] 0 = some (.instr (.busWrShort 0x1B [0x01])) ∧
    reads [0x41, 0x10] 4 = some (.instr (.busRdExt 0x00 0x44 4)) ∧
    reads [0x5E, 0xC8] 1 = some (.instr (.busRdExt 0x0F 0x32 1)) ∧
    reads [0x7F, 0xFC] 1 = some (.instr (.busRdExt 0x1F 0x7F 1)) ∧
    reads [0xC1, 0x10, 0x00, 0x20, 0x00, 0x00] 0 = some (.instr (.busWrExt 0x00 0x44 [0x00, 0x20, 0x00, 0x00])) ∧
    reads [0xFE, 0x10, 0x18, 0x00, 0x00, 0x00] 0 = some (.instr (.busWrExt 0x1F 0x04 [0x18, 0x00, 0x00, 0x00])) ∧
    reads [0xDC, 0x09, 0xEF, 0x00] 0 = some (.instr (.busMod8 0x0E 0x02 0xEF 0x00)) ∧
    reads [0xC0, 0x02, 0xFE, 0xFF, 0x00, 0x01] 0 = some (.instr (.busMod16 0x00 0x00 0xFFFE 0x0100)) ∧
    reads [0xC0, 0x43, 0xF7, 0xFF, 0xFF, 0xFF, 0x00, 0x04, 0x00, 0x00] 0 = some (.instr (.busMod32 0x00 0x10 0xFFFFFFF7 0x00000400)) := by decide +kernel

/-- 30_encoding.md R104: `00ccccc1`, `01fffffsssssss01`, `..10`, `..11`. -/
theorem test_decode_invalid_patterns :
    reads [0x3F] 0 = some (.instr (.busInvalidFastRead 0x1F)) ∧
    reads [0x41, 0x11] 0 = some (.instr (.busInvalidReadM1 0x00 0x44)) ∧
    reads [0x41, 0x12] 0 = some (.instr (.busInvalidReadM2 0x00 0x44)) ∧
    reads [0x41, 0x13] 0 = some (.instr (.busInvalidReadM3 0x00 0x44)) := by decide +kernel

/-- 42_fastcmd.md R202: the frame of every catalogued and every reserved code. -/
theorem test_decode_fast_frames :
    reads [0x81] 0 = some (.instr .fcTxrxoff) ∧
    reads [0x83] 0 = some (.instr .fcTx) ∧
    reads [0x85] 0 = some (.instr .fcRx) ∧
    reads [0x87] 0 = some (.instr .fcDtx) ∧
    reads [0x89] 0 = some (.instr .fcDrx) ∧
    reads [0x8B] 0 = some (.instr .fcDtxTs) ∧
    reads [0x8D] 0 = some (.instr .fcDrxTs) ∧
    reads [0x8F] 0 = some (.instr .fcDtxRs) ∧
    reads [0x91] 0 = some (.instr .fcDrxRs) ∧
    reads [0x93] 0 = some (.instr .fcDtxRef) ∧
    reads [0x95] 0 = some (.instr .fcDrxRef) ∧
    reads [0x97] 0 = some (.instr .fcCcaTx) ∧
    reads [0x99] 0 = some (.instr .fcTxW4r) ∧
    reads [0x9B] 0 = some (.instr .fcDtxW4r) ∧
    reads [0x9D] 0 = some (.instr .fcDtxTsW4r) ∧
    reads [0x9F] 0 = some (.instr .fcDtxRsW4r) ∧
    reads [0xA1] 0 = some (.instr .fcDtxRefW4r) ∧
    reads [0xA3] 0 = some (.instr .fcCcaTxW4r) ∧
    reads [0xA7] 0 = some (.instr .fcDbToggle) ∧
    reads [0xA9] 0 = some (.instr .fcSemaReq) ∧
    reads [0xAB] 0 = some (.instr .fcSemaRel) ∧
    reads [0xAD] 0 = some (.instr .fcSemaForce) ∧
    reads [0xB1] 0 = some (.instr .fcSoftResetSem) ∧
    reads [0xB3] 0 = some (.instr .fcSoftResetNoSem) ∧
    reads [0xB5] 0 = some (.instr .fcEnterSleep) ∧
    reads [0xA5] 0 = some (.instr .fcReserved12) ∧
    reads [0xAF] 0 = some (.instr .fcReserved17) ∧
    reads [0xB7] 0 = some (.instr .fcReserved1B) ∧
    reads [0xB9] 0 = some (.instr .fcReserved1C) ∧
    reads [0xBB] 0 = some (.instr .fcReserved1D) ∧
    reads [0xBD] 0 = some (.instr .fcReserved1E) ∧
    reads [0xBF] 0 = some (.instr .fcReserved1F) := by decide +kernel

/-- A code without a name, under a configuration that moves `DB_TOGGLE` to `0x12`. -/
theorem test_decode_unnamed_code :
    decode { Config.RM0 with FC := { Config.RM0.FC with DB_TOGGLE := 0x12 } } (.frame { bytes := [0xA7] }) =
        some (.instr (.busFast 0x13)) ∧
      decode { Config.RM0 with FC := { Config.RM0.FC with DB_TOGGLE := 0x12 } } (.frame { bytes := [0xA5] }) =
        some (.instr .fcDbToggle) := by decide +kernel

/-- 30_encoding.md R105: what is no frame. -/
theorem test_decode_rejects :
    reads [] 0 = some (.rejected .emptyFrame) ∧ reads [0x41] 0 = some (.rejected .truncatedHeader) ∧
    reads [0x81, 0x00] 0 = some (.rejected .fastWithPayload) ∧
    reads [0xC0, 0x01, 0xEF] 0 = some (.rejected .modifyPayloadLength) ∧
    reads [0x3E, 0x00] 1 = some (.rejected .readWithPayload) ∧
    decodeFrame Config.RM0 true [0x80] = .invalid .missingTrailer := by decide +kernel

/-- 95_test_vectors.md section 2: a trailer that does not match. -/
theorem test_decode_bad_trailer :
    decodeFrame Config.RM0 true [0xC1, 0x10, 0x00, 0x20, 0x00, 0x00, 0xC3] =
      .frame { kind := .write, ext := true, file := 0, sub := 0x44, payload := [0x00, 0x20, 0x00, 0x00], crcOk := false } := by
  decide +kernel

/-- 30_encoding.md R112: op codes and the operand fields they read; other bits of the operand words are ignored. -/
theorem test_decode_cmd :
    decodeCmd { op := 0x00 } = .init ∧ decodeCmd { op := 0x01 } = .deinit ∧
    decodeCmd { op := 0x02, v0 := 0x1234ABCD } = .setChannel 0xCD ∧
    decodeCmd { op := 0x03, v0 := 0xF03, v1 := 0xF07 } = .setSts 0x03 0x07 ∧
    decodeCmd { op := 0x04, v0 := 0xFE } = .setCrcMode 2 ∧ decodeCmd { op := 0x05, v0 := 3 } = .setFceDis true ∧
    decodeCmd { op := 0x06, v0 := 2 } = .setZeroLenOk false ∧ decodeCmd { op := 0x07, v0 := 1 } = .setLongFrames true ∧
    decodeCmd { op := 0x08, v0 := 0x0E, v1 := 1 } = .setCallback 6 true ∧
    decodeCmd { op := 0x09, v0 := 0xFFFFFFFF, v1 := 0x6080 } = .irqSrcModify 0xFFFFFFFF 0x6080 ∧
    decodeCmd { op := 0x10, addr := 0x44, offset := 1, len := 2, mode := 0x8000, buf := [1, 2] } =
      .transact 0x44 1 2 0x8000 false [1, 2] ∧
    decodeCmd { op := 0x11, addr := 0x44, offset := 3 } = .read8 0x44 3 ∧
    decodeCmd { op := 0x12, addr := 0x4C } = .read16 0x4C 0 ∧ decodeCmd { op := 0x13, addr := 0x44 } = .read32 0x44 0 ∧
    decodeCmd { op := 0x14, addr := 0x10024, v0 := 0xABCD } = .write8 0x10024 0 0xCD ∧
    decodeCmd { op := 0x15, addr := 0x90008, v0 := 0x1E104 } = .write16 0x90008 0 0xE104 ∧
    decodeCmd { op := 0x16, addr := 0x44, v0 := 0x6F00 } = .write32 0x44 0 0x6F00 ∧
    decodeCmd { op := 0x17, addr := 0xE0000, offset := 2, v0 := 0x1EF, v1 := 0x100 } = .modify8 0xE0000 2 0xEF 0x00 ∧
    decodeCmd { op := 0x18, v0 := 0xFFFE, v1 := 0x0100 } = .modify16 0 0 0xFFFE 0x0100 ∧
    decodeCmd { op := 0x19, addr := 0x10, v0 := 0xFFFFFFF7, v1 := 0x400 } = .modify32 0x10 0 0xFFFFFFF7 0x400 ∧
    decodeCmd { op := 0x20, addr := 0x13 } = .fastcmd 0x13 ∧ decodeCmd { op := 0x30, mode := 0x112 } = .startTx 0x12 ∧
    decodeCmd { op := 0x31, mode := 0x03 } = .startRx 0x03 ∧ decodeCmd { op := 0x32 } = .forceTrxOff ∧
    decodeCmd { op := 0x40, v0 := 1 } = .dblEnable true ∧ decodeCmd { op := 0x41 } = .dblDisable ∧
    decodeCmd { op := 0x42 } = .signalBufferFree ∧ decodeCmd { op := 0x50 } = .isrPass ∧
    decodeCmd { op := 0x0A } = .cmdReserved 0x0A ∧ decodeCmd { op := 0xFF } = .cmdReserved 0xFF := by decide +kernel

/-- 30_encoding.md R117, 95_test_vectors.md 4.14 and 4.15. -/
theorem test_pseudo_operations :
    setbit32 0x10 0 10 = .modify32 0x10 0 0xFFFFFFFF 0x400 ∧ clrbit8 0x0E0000 2 4 = .modify8 0x0E0000 2 0xEF 0x00 := by
  decide +kernel

/-- Words of the opcode table (log 7). -/
theorem test_table_words :
    decodeTableWord 8 0x3E = some (.busRdShort 0x1F 1) ∧ decodeTableWord 8 0xB6 = some (.busWrShort 0x1B [0]) ∧
    decodeTableWord 16 0x4110 = some (.busRdExt 0 0x44 1) ∧ decodeTableWord 16 0xDC09 = some (.busMod8 0x0E 0x02 0 0) ∧
    decodeTableWord 8 0xA7 = some .fcDbToggle ∧ decodeTableWord 8 0x50 = some .isrPass ∧
    decodeTableWord 8 0x0A = some (.busRdShort 5 1) := by decide +kernel

/-- The word placed is the next instruction: from reset, `READ8` before `init` (95_test_vectors.md 4.16). -/
theorem test_withFetchWord :
    stepSent (State.reset.withFetchWord 8 0x11) = some [.answer (.err .invalidArgument)] ∧
    stepSent (State.reset.withFetchWord 8 0x00) = some [okay] ∧
    stepSent (base.withFetchWord 8 0xA7) = some [wr [0xA7] [], okay] := by decide +kernel

/-! ## CRC (95_test_vectors.md section 3) -/

theorem test_crc :
    crc8 Config.RM0 [] = 0x00 ∧ crc8 Config.RM0 [0x80, 0x00] = 0xB6 ∧ crc8 Config.RM0 [0xAA, 0x55] = 0x36 ∧
    crc8 Config.RM0 [0x31, 0x32, 0x33, 0x34, 0x35, 0x36, 0x37, 0x38, 0x39] = 0xF4 ∧
    crc8 Config.RM0 [0x41, 0x10, 0x00, 0x60, 0x00, 0x00] = 0xA8 ∧
    crc8 Config.RM0 [0x41, 0x10, 0x00, 0x60, 0x00, 0x00, 0xA8] = 0x00 := by decide +kernel

/-! ## One instruction, one step -/

/-- 42_fastcmd.md R202: frame and trailer of the off command and of the starts. -/
theorem test_fast_starts :
    sent .fcTxrxoff (inMode .write base) = some [.busWrite [0x81] [] (some 0x8E) true, okay] ∧
    sent .fcTx (inMode .write base) = some [.busWrite [0x83] [] (some 0x80) true, okay] ∧
    sent .fcRx (inMode .write base) = some [.busWrite [0x85] [] (some 0x92) true, okay] ∧
    sent .fcDtx (inMode .write base) = some [.busWrite [0x87] [] (some 0x9C) true, okay] ∧
    sent .fcDrx (inMode .write base) = some [.busWrite [0x89] [] (some 0xB6) true, okay] ∧
    sent .fcDtxTs (inMode .write base) = some [.busWrite [0x8B] [] (some 0xB8) true, okay] ∧
    sent .fcDrxTs (inMode .write base) = some [.busWrite [0x8D] [] (some 0xAA) true, okay] ∧
    sent .fcDtxRs (inMode .write base) = some [.busWrite [0x8F] [] (some 0xA4) true, okay] ∧
    sent .fcDrxRs (inMode .write base) = some [.busWrite [0x91] [] (some 0xFE) true, okay] ∧
    sent .fcDtxRef (inMode .write base) = some [.busWrite [0x93] [] (some 0xF0) true, okay] ∧
    sent .fcDrxRef (inMode .write base) = some [.busWrite [0x95] [] (some 0xE2) true, okay] ∧
    sent .fcCcaTx (inMode .write base) = some [.busWrite [0x97] [] (some 0xEC) true, okay] := by decide +kernel

/-- 42_fastcmd.md R202: frame and trailer of the starts that expect a response. -/
theorem test_fast_starts_w4r :
    sent .fcTxW4r (inMode .write base) = some [.busWrite [0x99] [] (some 0xC6) true, okay] ∧
    sent .fcDtxW4r (inMode .write base) = some [.busWrite [0x9B] [] (some 0xC8) true, okay] ∧
    sent .fcDtxTsW4r (inMode .write base) = some [.busWrite [0x9D] [] (some 0xDA) true, okay] ∧
    sent .fcDtxRsW4r (inMode .write base) = some [.busWrite [0x9F] [] (some 0xD4) true, okay] ∧
    sent .fcDtxRefW4r (inMode .write base) = some [.busWrite [0xA1] [] (some 0x6E) true, okay] ∧
    sent .fcCcaTxW4r (inMode .write base) = some [.busWrite [0xA3] [] (some 0x60) true, okay] := by decide +kernel

/-- 42_fastcmd.md R202: frame and trailer of the other commands. -/
theorem test_fast_others :
    sent .fcDbToggle (inMode .write base) = some [.busWrite [0xA7] [] (some 0x7C) true, okay] ∧
    sent .fcSemaReq (inMode .write base) = some [.busWrite [0xA9] [] (some 0x56) true, okay] ∧
    sent .fcSemaRel (inMode .write base) = some [.busWrite [0xAB] [] (some 0x58) true, okay] ∧
    sent .fcSemaForce (inMode .write base) = some [.busWrite [0xAD] [] (some 0x4A) true, okay] ∧
    sent .fcSoftResetSem (inMode .write base) = some [.busWrite [0xB1] [] (some 0x1E) true, okay] ∧
    sent .fcSoftResetNoSem (inMode .write base) = some [.busWrite [0xB3] [] (some 0x10) true, okay] ∧
    sent .fcEnterSleep (inMode .write base) = some [.busWrite [0xB5] [] (some 0x02) true, okay] := by decide +kernel

/-- The reserved codes are sent all the same (log 21); trailers from the opcode table. -/
theorem test_fast_reserved :
    sent .fcReserved12 (inMode .write base) = some [.busWrite [0xA5] [] (some 0x72) true, okay] ∧
    sent .fcReserved17 (inMode .write base) = some [.busWrite [0xAF] [] (some 0x44) true, okay] ∧
    sent .fcReserved1B (inMode .write base) = some [.busWrite [0xB7] [] (some 0x0C) true, okay] ∧
    sent .fcReserved1C (inMode .write base) = some [.busWrite [0xB9] [] (some 0x26) true, okay] ∧
    sent .fcReserved1D (inMode .write base) = some [.busWrite [0xBB] [] (some 0x28) true, okay] ∧
    sent .fcReserved1E (inMode .write base) = some [.busWrite [0xBD] [] (some 0x3A) true, okay] ∧
    sent .fcReserved1F (inMode .write base) = some [.busWrite [0xBF] [] (some 0x34) true, okay] := by decide +kernel

theorem test_bus_fast : sent (.busFast 0x1F) base = some [wr [0xBF] [], okay] := by decide +kernel

/-- 95_test_vectors.md section 2, vectors 3, 6, 27 to 30. -/
theorem test_bus_frames :
    sent (.busRdShort 0x1F 1) (scripted [.data [0x08]]) =
      some [.busRead [0x3E] 1 (some [0x08]), .answer (.ok (.bytes [0x08]))] ∧
    sent (.busRdExt 0 0x44 4) (scripted [.fail true]) =
      some [.busRead [0x41, 0x10] 4 none, .answer (.err .busError)] ∧
    sent (.busWrShort 0x1B [0x03]) base = some [wr [0xB6] [0x03], okay] ∧
    sent (.busWrExt 0 0x44 [0x00, 0x20, 0x00, 0x00]) (inMode .write base) =
      some [.busWrite [0xC1, 0x10] [0x00, 0x20, 0x00, 0x00] (some 0xC2) true, okay] ∧
    sent (.busMod8 0 0 0xEF 0x01) base = some [wr [0xC0, 0x01] [0xEF, 0x01], okay] ∧
    sent (.busMod16 0 0 0xFFFE 0x0100) base = some [wr [0xC0, 0x02] [0xFE, 0xFF, 0x00, 0x01], okay] ∧
    sent (.busMod32 0 0x3C 0xFFFFFFFF 0x6080) base =
      some [wr [0xC0, 0xF3] [0xFF, 0xFF, 0xFF, 0xFF, 0x80, 0x60, 0x00, 0x00], okay] := by decide +kernel

theorem test_bus_frame_lengths :
    sent (.busWrShort 0x1B []) base = some [.answer (.err .protocolError)] ∧
    sent (.busRdShort 0x1B 0x3100) base = some [.answer (.err .protocolError)] := by decide +kernel

/-- 95_test_vectors.md section 2, vectors 36 to 47. -/
theorem test_transact :
    sent (.transact 0x7F 1 1 0x0000 false []) (scripted [.data [0x5A]]) =
      some [.busRead [0x00] 1 (some [0x5A]), .answer (.ok (.bytes [0x5A]))] ∧
    sent (.transact 0x44 0 0 0x0000 false []) base = some [.answer (.err .protocolError)] ∧
    sent (.transact 0x44 0 0x3100 0x0000 false []) base = some [.answer (.err .protocolError)] ∧
    sent (.transact 0x44 0 1 0x4000 false []) base = some [.answer (.err .protocolError)] ∧
    sent (.transact 0 0 2 0x8002 false [0xFE, 0xFF]) base = some [.answer (.err .protocolError)] ∧
    sent (.transact 0x20 0 0 0x8000 true []) base = some [.answer (.err .protocolError)] ∧
    sent (.transact 0x02 0 1 0x8000 true [0x00]) base = some [.answer (.err .protocolError)] ∧
    sent (.transact 0x02 0 0 0x8000 true []) base = some [wr [0x85] [], okay] ∧
    sent (.transact 0x44 0 4 0x8000 false [0x00, 0x20, 0x00, 0x00]) (inMode .write base) =
      some [.busWrite [0xC1, 0x10] [0x00, 0x20, 0x00, 0x00] (some 0xC2) true, okay] := by decide +kernel

/-- 95_test_vectors.md vector 43, with `HALT_ON_PROTOCOL_ERROR`. -/
theorem test_transact_halts :
    (stateOf (exec (.transact 0x44 0 1 0x4000 false [])
      { base with cfg := { Config.RM0 with HALT_ON_PROTOCOL_ERROR := true } })).seq.halted = true ∧
    sent (.transact 0x44 0 1 0x4000 false []) { base with cfg := { Config.RM0 with HALT_ON_PROTOCOL_ERROR := true } } =
      some [] := by decide +kernel

/-- 95_test_vectors.md 4.1 to 4.5. -/
theorem test_reads :
    sent (.read8 0x1F0000 0) (scripted [.data [0x08]]) =
      some [.busRead [0x3E] 1 (some [0x08]), .answer (.ok (.bits8 0x08))] ∧
    sent (.read16 0x00004C 0) (scripted [.data [0x0C, 0x80]]) =
      some [.busRead [0x41, 0x30] 2 (some [0x0C, 0x80]), .answer (.ok (.bits16 0x800C))] ∧
    sent (.read32 0x000044 0) (scripted [.data [0x78, 0x56, 0x34, 0x12]]) =
      some [.busRead [0x41, 0x10] 4 (some [0x78, 0x56, 0x34, 0x12]), .answer (.ok (.bits32 0x12345678))] := by
  decide +kernel

/-- 95_test_vectors.md P3, steps 3 and 6: a checked read waits for its echo; the echo register is exempt. -/
theorem test_checked_read :
    sent (.read32 0x000044 0) (inMode .writeRead (scripted [.data [0x00, 0x60, 0x00, 0x00]])) =
      some [.busRead [0x41, 0x10] 4 (some [0x00, 0x60, 0x00, 0x00])] ∧
    sent (.read8 0x000018 0) (inMode .writeRead (scripted [.data [0xA8]])) =
      some [.busRead [0x40, 0x60] 1 (some [0xA8]), .answer (.ok (.bits8 0xA8))] := by decide +kernel

/-- 95_test_vectors.md P3, step 4: the echo differs, and the alarm is next; and with the callback absent, the answer. -/
theorem test_echo_mismatch :
    stepSent { inMode .writeRead { loud with env := (scripted [.data [0xA8]]).env } with
        stack := [.task { owner := .cmd, pt := .read [0x41, 0x10] true 4 .bits32, phase := .echo 0xC3 [0x00, 0x61, 0x00, 0x00] }] } =
      some [.busRead [0x40, 0x60] 1 (some [0xA8])] ∧
    stepSent { inMode .writeRead (scripted [.data [0xA8]]) with
        stack := [.task { owner := .cmd, pt := .read [0x41, 0x10] true 4 .bits32, phase := .echo 0xC3 [0x00, 0x61, 0x00, 0x00] }] } =
      some [.busRead [0x40, 0x60] 1 (some [0xA8]), .answer (.ok (.bits32 0x6100))] := by decide +kernel

/-- 95_test_vectors.md section 3, frames with trailer. -/
theorem test_writes :
    sent (.write8 0x010024 0 0xF0) (inMode .write base) =
      some [.busWrite [0xC2, 0x90] [0xF0] (some 0x64) true, okay] ∧
    sent (.write16 0x090008 0 0xE104) (inMode .writeRead base) =
      some [.busWrite [0xD2, 0x20] [0x04, 0xE1] (some 0x5F) true, okay] ∧
    sent (.write32 0x000044 0 0x6F00) (inMode .write base) =
      some [.busWrite [0xC1, 0x10] [0x00, 0x6F, 0x00, 0x00] (some 0x03) true, okay] := by decide +kernel

/-- 95_test_vectors.md section 3, frames with trailer. -/
theorem test_modifies :
    sent (.modify8 0x0E0000 2 0xEF 0x00) (inMode .write base) =
      some [.busWrite [0xDC, 0x09] [0xEF, 0x00] (some 0x9F) true, okay] ∧
    sent (.modify16 0 0 0xFFFE 0x0100) (inMode .write base) =
      some [.busWrite [0xC0, 0x02] [0xFE, 0xFF, 0x00, 0x01] (some 0xB5) true, okay] ∧
    sent (.modify32 0x10 0 0xFFFFFFF7 0x400) (inMode .write base) =
      some [.busWrite [0xC0, 0x43] [0xF7, 0xFF, 0xFF, 0xFF, 0x00, 0x04, 0x00, 0x00] (some 0x61) true, okay] := by
  decide +kernel

/-- 95_test_vectors.md 4.9 to 4.11: what the reference responder holds afterwards. -/
theorem test_modified_bytes :
    (stateOf (exec (.modify8 0x0E0000 2 0xEF 0x00) (holding [(0x0E0002, 0x13)] base))).env.chip.mem = [(0x0E0002, 0x03)] ∧
    (stateOf (exec (.modify16 0 0 0xFFFE 0x0100) (holding [(0, 0xFF)] base))).env.chip.mem = [(0, 0xFE), (1, 0x01)] ∧
    (stateOf (exec (.modify32 0x10 0 0xFFFFFFF7 0x400) (holding [(0x10, 0x08)] base))).env.chip.mem = [(0x11, 0x04)] := by
  decide +kernel

/-- 95_test_vectors.md P3, step 5: write one to clear. -/
theorem test_written_status :
    (stateOf (exec (.write32 0x000044 0 0x2000) (holding [(0x45, 0x60)] base))).env.chip.mem = [(0x45, 0x40)] := by
  decide +kernel

/-- 95_test_vectors.md section 5. -/
theorem test_fastcmd :
    sent (.fastcmd 0x01) base = some [wr [0x83] [], okay] ∧ sent (.fastcmd 0x12) base = some [wr [0xA5] [], okay] ∧
    sent (.fastcmd 0x20) base = some [.answer (.err .protocolError)] := by decide +kernel

/-- 42_fastcmd.md R231, 95_test_vectors.md section 5. -/
theorem test_start_codes :
    txcmd Config.RM0.FC .dlyRef true = 0x10 ∧ rxcmd Config.RM0.FC .dlyTxTs = 0x06 := by decide +kernel

/-- 95_test_vectors.md 6.1 to 6.10. -/
theorem test_start_tx :
    sent (.startTx 0x00) base = some [wr [0x83] [], okay] ∧ sent (.startTx 0x02) base = some [wr [0x99] [], okay] ∧
    sent (.startTx 0x20) base = some [wr [0x97] [], okay] ∧ sent (.startTx 0x01) base = some [wr [0x87] []] ∧
    sent (.startTx 0x08) (scripted [.data [0x15, 0x40]]) = some [.busRead [0x1C] 2 (some [0x15, 0x40])] ∧
    sent (.startTx 0x12) (scripted [.data [0x01, 0x00]]) = some [.busRead [0x42, 0x10] 2 (some [0x01, 0x00])] ∧
    sent (.startTx 0x05) base = some [.answer (.err .invalidArgument)] ∧
    sent (.startTx 0x40) base = some [.answer (.err .invalidArgument)] := by decide +kernel

/-- 95_test_vectors.md 6.4 to 6.7, step by step: the status byte, and the corrected delay. -/
theorem test_start_tx_late :
    stepSent (doing .cmd (.trx .lateRead { tx := true, flv := .delayed, opt := false }) (scripted [.data [0xF7]])) =
      some [.busRead [0x41, 0x1C] 1 (some [0xF7]), okay] ∧
    stepSent (doing .cmd (.trx .lateRead { tx := true, flv := .delayed, opt := false }) (scripted [.data [0x08]])) =
      some [.busRead [0x41, 0x1C] 1 (some [0x08])] ∧
    stepSent (doing .cmd (.trx .lateOff { tx := true, flv := .delayed, opt := false }) base) =
      some [wr [0x81] [], .answer (.err .late)] ∧
    correctedDelay { Config.RM0 with ANT_DLY_TO_DX := .zext32 } 0x12345678 0x4015 = 0x12341663 := by decide +kernel

/-- 95_test_vectors.md 6.17 and 6.25. -/
theorem test_start_rx :
    sent (.startRx 0x00) base = some [wr [0xD2, 0x20] [0x04, 0xE1]] ∧
    sent (.startRx 0x20) base = some [.answer (.err .invalidArgument)] := by decide +kernel

/-- 95_test_vectors.md 6.20 to 6.22, step by step. -/
theorem test_start_rx_late :
    stepSent (doing .cmd (.trx .lateOff { tx := false, flv := .delayed, opt := true }) base) =
      some [wr [0x81] [], .answer (.err .late)] ∧
    stepSent (doing .cmd (.trx .lateOff { tx := false, flv := .delayed, opt := false }) base) = some [wr [0x81] []] ∧
    stepSent (doing .cmd (.trx .lateRx { tx := false, flv := .delayed, opt := false }) base) =
      some [wr [0x85] [], .answer (.err .late)] := by decide +kernel

/-- 95_test_vectors.md 6.12 to 6.16. -/
theorem test_force_trx_off :
    sent .forceTrxOff (scripted [.data [0x03]]) = some [.busRead [0x5E, 0xC8] 1 (some [0x03]), okay] ∧
    sent .forceTrxOff (scripted [.data [0x04]]) = some [.busRead [0x5E, 0xC8] 1 (some [0x04])] ∧
    stepSent (doing .cmd (.crit .mask .trxOff) base) = some [.irqSaveDisable false] ∧
    stepSent (doing .cmd (.crit (.unmask false (.err .busError)) .trxOff) base) =
      some [.irqRestore false, .answer (.err .busError)] := by decide +kernel

/-- 95_test_vectors.md 8.12. -/
theorem test_irq_src_modify :
    sent (.irqSrcModify 0xFFFFFFFF 0x6080) base = some [.irqSaveDisable false] ∧
    stepSent (doing .cmd (.crit (.run false) (.irqSrc 0xFFFFFFFF 0x6080)) base) =
      some [wr [0xC0, 0xF3] [0xFF, 0xFF, 0xFF, 0xFF, 0x80, 0x60, 0x00, 0x00]] := by decide +kernel

/-- 95_test_vectors.md 8.1, 8.2, 8.4 to 8.6. -/
theorem test_double_buffer :
    sent (.dblEnable true) base = some [wr [0xC0, 0x43] [0xF7, 0xFF, 0xFF, 0xFF, 0x00, 0x04, 0x00, 0x00]] ∧
    sent (.dblEnable false) base = some [wr [0xC0, 0x43] [0xF7, 0xFB, 0xFF, 0xFF, 0x00, 0x00, 0x00, 0x00]] ∧
    sent .dblDisable base = some [wr [0xC0, 0x43] [0xFF, 0xFF, 0xFF, 0xFF, 0x08, 0x00, 0x00, 0x00]] ∧
    sent .signalBufferFree base = some [.answer (.err .invalidArgument)] ∧
    sent .signalBufferFree (onBuffer .buffer0 base) = some [wr [0xA7] []] ∧
    sent .signalBufferFree (onBuffer .buffer0 (scripted [.fail false])) =
      some [.busWrite [0xA7] [] none false, .answer (.err .busError)] := by decide +kernel

/-- 44_dblbuf.md R286. -/
theorem test_flip :
    (stateOf (step (doing .cmd (.dbl .flip) (onBuffer .buffer1 base)))).ctx.dbl = .buffer0 ∧
    (stateOf (step (doing .cmd (.dbl .disSet) (onBuffer .buffer1 base)))).ctx.dbl = .off := by decide +kernel

/-- 46_context_ops.md R353 to R359, 95_test_vectors.md 8.10 and 8.13. -/
theorem test_setters :
    (stateOf (exec (.setChannel 9) base)).ctx.channel = 9 ∧
    (stateOf (exec (.setSts 0x03 0x00) base)).ctx.stsMode = 0x03 ∧
    noDataMode Config.RM0 (stateOf (exec (.setSts 0x03 0x00) base)).ctx = true ∧
    noDataMode Config.RM0 (stateOf (exec (.setSts 0x01 0x03) base)).ctx = false ∧
    (stateOf (exec (.setCrcMode 2) base)).ctx.crcMode = .writeRead ∧
    sent (.setCrcMode 3) base = some [.answer (.err .invalidArgument)] ∧
    (stateOf (exec (.setFceDis true) base)).ctx.fceDis = true ∧
    (stateOf (exec (.setZeroLenOk true) base)).ctx.zeroLenOk = true ∧
    (stateOf (exec (.setLongFrames true) base)).ctx.longFrames = true ∧
    (stateOf (exec (.setCallback 6 true) base)).ctx.cb = 0x40 ∧
    (stateOf (exec (.setCallback 6 false) loud)).ctx.cb = 0xBF := by decide +kernel

/-- 95_test_vectors.md 8.8, 8.9, 8.11. -/
theorem test_life_cycle :
    (stateOf (exec .init (onBuffer .buffer1 loud))).ctx = base.ctx ∧
    (stateOf (exec .deinit loud)).ctx = Ctx.powerOn ∧ sent .deinit loud = some [okay] ∧
    sent (.read8 0x1F0000 0) State.reset = some [.answer (.err .invalidArgument)] ∧
    sent (.cmdReserved 0x33) base = some [.answer (.err .invalidArgument)] := by decide +kernel

/-- 95_test_vectors.md 7.1 and 7.34. -/
theorem test_isr_pass :
    sent .isrPass (scripted [.data [0x08]]) = some [.busRead [0x3E] 1 (some [0x08])] ∧
    sent .isrPass { base with seq := { base.seq with inPass := true } } = some [.answer (.err .invalidArgument)] := by
  decide +kernel

/-- 95_test_vectors.md 7.2, 7.3 and 7.11: the frame-info word, and the dispatch after the clear. -/
theorem test_pass_reception :
    (stateOf (step (inPass .g5Finfo { fstat := 0x08, st := 0x6F00 } (scripted [.data [0x0C, 0x80]])))).evt.datalen = 12 ∧
    (stateOf (step (inPass .g5Finfo { fstat := 0x08, st := 0x6F00 } (scripted [.data [0x0C, 0x80]])))).evt.rng = true ∧
    (stateOf (step (inPass .g5Clr { fstat := 0x08, st := 0x6F00, clr := 0x6F00 } base))).evt.flags.phrErr = true ∧
    (stateOf (step (inPass .g4Clr { fstat := 0x48, st := 0x10046F00 } base))).evt.flags =
      { ciaDone := true, ciaErr := true, stsErr := true, noData := false, phrErr := false } := by decide +kernel

/-- 95_test_vectors.md 7.21, 7.22 and 7.24: the merge of the current buffer's half. -/
theorem test_pass_merge :
    (stateOf (step (inPass .capSub { fstat := 0x08 } (onBuffer .buffer0 (scripted [.data [0x07]]))))).evt.status = 0x6400 ∧
    (stateOf (step (inPass .capSub { fstat := 0x08 } (onBuffer .buffer1 (scripted [.data [0x70]]))))).evt.status = 0x6400 ∧
    (stateOf (step (inPass .capSub { fstat := 0x08 } (onBuffer .buffer1 (scripted [.data [0x07]]))))).evt.status = 0 := by
  decide +kernel

/-- 95_test_vectors.md 7.12, 7.14, 7.20 and 7.26: writes of the groups. -/
theorem test_pass_writes :
    stepSent (inPass .g3Clr {} base) = some [wr [0xC1, 0x10] [0xF0, 0x00, 0x00, 0x00]] ∧
    stepSent (inPass .g2aHi {} base) = some [wr [0xC1, 0x20] [0x80, 0x03]] ∧
    stepSent (inPass .g6Clr {} base) = some [wr [0xC1, 0x10] [0x00, 0xB4, 0x11, 0x24]] ∧
    stepSent (inPass .g7Clr {} base) = some [wr [0xC1, 0x10] [0x00, 0x04, 0x22, 0x00]] ∧
    stepSent (inPass .g5Sub {} (onBuffer .buffer1 base)) = some [wr [0xC2, 0x90] [0xF0]] ∧
    stepSent (inPass .g8Clr { dss := 0x03 } base) = some [wr [0xB6] [0x03]] := by decide +kernel

/-- 95_test_vectors.md P1, step 5: the reference responder's fast status and device state. -/
theorem test_chip_status :
    fastStatus Config.RM0 (holding [(0x010024, 0x07)] base).env.chip = 0x08 ∧
    fastStatus Config.RM0 (holding [(0x45, 0xAF)] base).env.chip = 0x18 ∧
    (stateOf (exec .fcRx base)).env.chip.trx = .receiving ∧ (stateOf (exec .fcRx base)).env.chip.log = [0x02] ∧
    (stateOf (exec .fcDbToggle base)).env.chip.hwbuf = .buf1 ∧ (stateOf (exec .fcSemaForce base)).env.chip.sem = .thisHost := by
  decide +kernel

/-- 70_reset_and_hazards.md R431: a trailer the chip does not expect is stored after the payload; a frame without the trailer
it expects is flagged, a fast command too. -/
theorem test_crc_mismatch :
    (stateOf (exec (.write8 0x010004 0 0x01) (chipCrc false (inMode .write base)))).env.chip.mem =
      [(0x010004, 0x01), (0x010005, crc8 Config.RM0 [0xC2, 0x10, 0x01])] ∧
    (stateOf (exec (.write8 0x010004 0 0x01) (chipCrc true base))).env.chip.mem = [(0x44, 0x04)] ∧
    (stateOf (exec .fcTx (chipCrc true base))).env.chip.mem = [(0x44, 0x04)] ∧
    (stateOf (exec (.modify8 0x0E0000 2 0xEF 0x00) (chipCrc true base))).env.chip.mem = [(0x44, 0x04)] := by decide +kernel

/-- 70_reset_and_hazards.md R426 (f), 43_trx_sequencer.md R240: the other host's toggle and a sent frame between two actions. -/
theorem test_chip_moves :
    (stateOf (step { base with sched := [{ hwbuf := some .buf1, trx := some .idlePLL }] })).env.chip.hwbuf = .buf1 ∧
    (stateOf (step { base with sched := [{ hwbuf := some .buf1, trx := some .idlePLL }] })).env.chip.trx = .idlePLL := by
  decide +kernel

/-- 60_exceptions.md R383, R391: the token says what the platform made of its own mask; a critical section keeps the mask. -/
theorem test_platform_mask :
    (stateOf (step { base with sched := [{ mask := some true }] })).env.platMask = true ∧
    sent (.irqSrcModify 0xFFFFFFFF 0x6080) (tick { base with sched := [{ mask := some true }] }) =
      some [.irqSaveDisable true] ∧
    (tick { base with
      seq := { base.seq with irqMasked := true }, env := { base.env with platMask := true },
      sched := [{ mask := some false }] }).env.platMask = true := by
  decide +kernel

/-- 70_reset_and_hazards.md R429: after a pass the operation it interrupted takes an action, whatever the environment wants. -/
theorem test_foreground_advances :
    (stateOf (step { doing .cmd (.dbl .flip) base with served := true, sched := [{ irq := some true, start := true }] })).stack =
      [] ∧
    (stateOf (step { doing .passIrq (.pass .g8Cb {}) base with
        stack := [.task { owner := .passIrq, pt := .pass .g8Cb {}, phase := .ready },
          .task { owner := .cmd, pt := .dbl .flip, phase := .ready }] })).served = true := by decide +kernel

/-- 60_exceptions.md R390, 70_reset_and_hazards.md R435: `isr_pass` from a callback outside a pass is refused. -/
theorem test_isr_pass_from_callback :
    sent .isrPass { loud with stack := [.handler .onSpiReadCrcError,
        .task { owner := .cmd, pt := .read [0x41, 0x10] true 4 .bits32, phase := .held [0, 0, 0, 0] }] } =
      some [.answer (.err .invalidArgument)] := by decide +kernel

/-- The four patterns stop (30_encoding.md R104). -/
theorem test_invalid_rows :
    sent (.busInvalidFastRead 0) base = none ∧ sent (.busInvalidReadM1 0 0) base = none ∧
    sent (.busInvalidReadM2 0 0) base = none ∧ sent (.busInvalidReadM3 0 0) base = none := by decide +kernel

/-! ## Witnesses: a state and operands that meet the hypotheses of each statement, clause by clause -/

theorem base_undisturbed : Undisturbed base :=
  ⟨test_wf_rm0, ⟨rfl, rfl⟩, rfl, rfl⟩

theorem scripted_undisturbed (rs : List Reply) : Undisturbed (scripted rs) :=
  ⟨test_wf_rm0, ⟨rfl, rfl⟩, rfl, rfl⟩

/-- A step that goes on, with what it leaves. -/
theorem step_goes (s : State) (P : State → Prop) (h : goesOn (step s) = true) (hp : P (stateOf (step s))) :
    ∃ t, step s = .next t ∧ P t :=
  ⟨stateOf (step s), eq_next h, hp⟩

theorem witness_PowerOnAndInitState : State.reset.seq.halted = false := rfl

theorem witness_InitRecreatesContext : onBuffer .buffer1 loud ≠ base ∧ (onBuffer .buffer1 loud).seq.halted = false :=
  ⟨by decide +kernel, rfl⟩

theorem witness_DeinitReturnsToPowerOn : Ready loud := ⟨rfl, rfl⟩

theorem witness_SettersWriteContextOnly : Ready loud := ⟨rfl, rfl⟩

/-- One step for each field. -/
theorem witness_ContextFieldWriters :
    (∃ t, step (given (.cmd { op := 0x00 }) State.reset) = .next t ∧ t.ctx.live ≠ false) ∧
    (∃ t, step (given (.cmd { op := 0x02, v0 := 5 }) base) = .next t ∧ t.ctx.channel ≠ base.ctx.channel) ∧
    (∃ t, step (given (.cmd { op := 0x03, v0 := 3 }) base) = .next t ∧ t.ctx.stsMode ≠ base.ctx.stsMode) ∧
    (∃ t, step (given (.cmd { op := 0x03, v1 := 3 }) base) = .next t ∧ t.ctx.stsLen ≠ base.ctx.stsLen) ∧
    (∃ t, step (given (.cmd { op := 0x04, v0 := 2 }) base) = .next t ∧ t.ctx.crcMode ≠ base.ctx.crcMode) ∧
    (∃ t, step (given (.cmd { op := 0x05, v0 := 1 }) base) = .next t ∧ t.ctx.fceDis ≠ base.ctx.fceDis) ∧
    (∃ t, step (given (.cmd { op := 0x06, v0 := 1 }) base) = .next t ∧ t.ctx.zeroLenOk ≠ base.ctx.zeroLenOk) ∧
    (∃ t, step (given (.cmd { op := 0x07, v0 := 1 }) base) = .next t ∧ t.ctx.longFrames ≠ base.ctx.longFrames) ∧
    (∃ t, step (given (.cmd { op := 0x08, v0 := 1, v1 := 1 }) base) = .next t ∧ t.ctx.cb ≠ base.ctx.cb) ∧
    (boundary base).power = false := by
  refine ⟨step_goes _ _ ?_ ?_, step_goes _ _ ?_ ?_, step_goes _ _ ?_ ?_, step_goes _ _ ?_ ?_, step_goes _ _ ?_ ?_,
    step_goes _ _ ?_ ?_, step_goes _ _ ?_ ?_, step_goes _ _ ?_ ?_, step_goes _ _ ?_ ?_, rfl⟩ <;> decide +kernel

/-- Enable, disable, and the flips of a request and of a pass. -/
theorem witness_DoubleBufferWriters :
    (∀ p d, Invariant (doing .cmd (.dbl p) (onBuffer d base))) ∧
    (∃ t, step (doing .cmd (.dbl .enSet) base) = .next t ∧ t.ctx.dbl ≠ base.ctx.dbl) ∧
    (∃ t, step (doing .cmd (.dbl .disSet) (onBuffer .buffer1 base)) = .next t ∧ t.ctx.dbl ≠ .buffer1) ∧
    (∃ t, step (doing .cmd (.dbl .flip) (onBuffer .buffer0 base)) = .next t ∧ t.ctx.dbl ≠ .buffer0) ∧
    (∃ t, step (inPass .g5Flip {} (onBuffer .buffer1 base)) = .next t ∧ t.ctx.dbl ≠ .buffer1) := by
  refine ⟨fun p d => ⟨rfl, rfl, rfl, nofun, nofun, by simp [doing, passCount, Entry.isPass, Task.isPass], nofun, nofun, fun _ => by show EventRec.zero.statusHi.toNat < _; decide⟩,
    step_goes _ _ ?_ ?_, step_goes _ _ ?_ ?_, step_goes _ _ ?_ ?_, step_goes _ _ ?_ ?_⟩ <;> decide +kernel

theorem witness_OperationsNeedLive :
    State.reset.ctx.live = false ∧ State.reset.seq.halted = false ∧ Instr.isrPass ≠ .init ∧
      isInvalidRow .isrPass = false := by decide +kernel

theorem witness_ReservedOpCodesAnswerInvalidArgument : base.seq.halted = false ∧ (0x0A#8) ∉ opCodes ∧ (0x51#8) ∉ opCodes :=
  ⟨rfl, by decide, by decide⟩

/-- A halted machine, with and without a power cycle at its boundary. -/
theorem witness_HaltedUntilPowerCycle :
    (∃ s : State, s.seq.halted = true ∧ s.cfg.wf = true ∧ (boundary s).power = false) ∧
    (∃ s : State, s.seq.halted = true ∧ s.cfg.wf = true ∧ (boundary s).power = true) ∧
    ∃ t, step (given (.cmd { op := 0x10, mode := 0x4000 }) base) = .next t ∧ base.cfg.HALT_ON_PROTOCOL_ERROR = false ∧
      base.seq.halted = false := by
  refine ⟨⟨{ base with seq := { base.seq with halted := true } }, rfl, test_wf_rm0, rfl⟩,
    ⟨{ base with seq := { base.seq with halted := true }, sched := [{ power := true }] }, rfl, test_wf_rm0, rfl⟩,
    step_goes _ _ ?_ ?_⟩ <;> decide +kernel

theorem witness_HaltNeedsParameter :
    ∃ t, step (given (.cmd { op := 0x10, mode := 0x4000 })
        { base with cfg := { Config.RM0 with HALT_ON_PROTOCOL_ERROR := true } }) = .next t ∧
      base.seq.halted = false ∧ t.seq.halted = true := by
  refine step_goes _ _ ?_ ?_ <;> decide +kernel

theorem witness_DecodeOfEncodeIsIdentity :
    Config.RM0.wf = true ∧ WellFormed Config.RM0 (.busWrExt 0x1F 0x7F [0xFF]) = true := by decide +kernel

/-- A read, a fast command and a modify. -/
theorem witness_FrameRoundTrip :
    ((Kind.read = .read → ([] : List Byte) = []) ∧ (Kind.read = .fast → ([] : List Byte) = [] ∧ (0x7F : Sub) = 0)) ∧
    (Kind.fast = .fast → ([] : List Byte) = [] ∧ (0 : Sub) = 0) ∧
    (Kind.isModify .mod32 = true → (List.replicate 8 (0xFF : Byte)).length = Kind.modLen .mod32) := by decide +kernel

/-- The three headers: fast, short, extended; each kind meets one of the premises only. -/
theorem witness_HeaderFormula :
    Kind.fast = .fast ∧ (Kind.write = .read ∨ Kind.write = .write) ∧ (0 : Sub) = 0 ∧
    (Kind.mod8 ≠ .fast ∧ ¬((Kind.mod8 = .read ∨ Kind.mod8 = .write) ∧ (0 : Sub) = 0)) ∧
    (Kind.read ≠ .fast ∧ ¬((Kind.read = .read ∨ Kind.read = .write) ∧ (1 : Sub) = 0)) := by decide +kernel

/-- 95_test_vectors.md section 2, vector 39. -/
theorem witness_AddressBitsDropped (i : Nat) (h : (16 ≤ i ∧ i ≤ 20) ∨ i ≤ 6) :
    (0xFFE00044#32 + (0#16).setWidth 32).getLsbD i = (0x44#32 + (0#16).setWidth 32).getLsbD i := by
  have hi : i < 21 := by omega
  have key : ∀ j : Fin 21, (16 ≤ j.val ∧ j.val ≤ 20) ∨ j.val ≤ 6 →
      (0xFFE00044#32 + (0#16).setWidth 32).getLsbD j.val = (0x44#32 + (0#16).setWidth 32).getLsbD j.val := by
    decide +kernel
  exact key ⟨i, hi⟩ h

theorem witness_InvalidPatternsRefused :
    (0x01#8).getLsbD 7 = false ∧ (0x01#8).getLsbD 6 = false ∧ (0x01#8).getLsbD 0 = true ∧
    (0x41#8).getLsbD 7 = false ∧ (0x41#8).getLsbD 6 = true ∧ (0x11#8).extractLsb' 0 2 ≠ 0 := by decide +kernel

theorem witness_CrcDetectsOneChangedByte : Config.RM0.CRC_POLY.getLsbD 0 = true ∧ (0x60 : Byte) ≠ 0x61 := by
  decide +kernel

/-- One request for each way not to be admitted, at the limits of the lengths and of the code. -/
theorem witness_TransactAdmission :
    Ready base ∧ (0x0000 : Half) ≠ 0x8000 ∧ (1 : Half) ≠ 0 ∧ 32 ≤ (32 : Word).toNat ∧ ([0x00] : List Byte) ≠ [] ∧
    (0x4000#16) ∉ [0x0000#16, 0x8000#16, 0x8001#16, 0x8002#16, 0x8003#16] ∧
    base.cfg.MAX_LEN ≤ (0x3100 : Half).toNat ∧ ((3 : Half) ≠ 2 ∧ (3 : Half) ≠ 4 ∧ (7 : Half) ≠ 8) ∧
    ([0x00, 0x01] : List Byte).length ≠ (1 : Half).toNat :=
  ⟨⟨rfl, rfl⟩, by decide +kernel⟩

/-- The shortest and the longest payload, the three modifies, the largest code. -/
theorem witness_TransactSendsOneFrame :
    Ready base ∧ (1 ≤ (List.replicate 1 (0 : Byte)).length ∧ (List.replicate 0x30FF (0 : Byte)).length < base.cfg.MAX_LEN ∧
      (List.replicate 0x30FF (0 : Byte)).length < 0x10000) ∧
    (Kind.modLen .mod32 < base.cfg.MAX_LEN ∧ (List.replicate 8 (0 : Byte)).length = Kind.modLen .mod32) ∧
    (31 : Word).toNat < 32 := by
  refine ⟨⟨rfl, rfl⟩, ⟨by decide, ?_, ?_⟩, by decide, by decide⟩ <;> rw [List.length_replicate] <;> decide

theorem witness_WriteAccessorsSendOneFrame : Ready (inMode .writeRead base) := ⟨rfl, rfl⟩

/-- In mode `WriteRead` with the callback absent, in mode `Write` with it present; the shortest and the longest read. -/
theorem witness_ReadsRunToTheirValue :
    (Undisturbed (inMode .writeRead base) ∧ NoAlarm (inMode .writeRead base)) ∧
    (Undisturbed (inMode .write loud) ∧ NoAlarm (inMode .write loud)) ∧
    ReadRequest base.cfg 0x44 0 (.read32 0x44 0) 4 (fun d => .bits32 (byteAt d 3 ++ byteAt d 2 ++ byteAt d 1 ++ byteAt d 0)) ∧
    ReadRequest base.cfg 0x44 0 (.transact 0x44 0 1 0 false []) (1 : Half).toNat .bytes ∧
    ReadRequest base.cfg 0x44 0 (.transact 0x44 0 0x30FF 0 false []) (0x30FF : Half).toNat .bytes :=
  ⟨⟨⟨test_wf_rm0, ⟨rfl, rfl⟩, rfl, rfl⟩, .inl (by decide +kernel)⟩,
    ⟨⟨test_wf_rm0, ⟨rfl, rfl⟩, rfl, rfl⟩, .inr (by decide +kernel)⟩, .read32,
    .transact 1 [] (by decide) (by decide), .transact 0x30FF [] (by decide) (by decide)⟩

theorem witness_UncheckedReadsAreOneTransaction :
    (Ready loud ∧ loud.ctx.crcMode ≠ .writeRead) ∧
    (Ready (inMode .writeRead loud) ∧ (0x18 : Word) = (inMode .writeRead loud).cfg.REG.CRC_ECHO) ∧
    ReadRequest base.cfg 0x18 0 (.read8 0x18 0) 1 (fun d => .bits8 (byteAt d 0)) :=
  ⟨⟨⟨rfl, rfl⟩, by decide⟩, ⟨⟨rfl, rfl⟩, rfl⟩, .read8⟩

/-- With the callback present. -/
theorem witness_CheckedReadWithEqualEcho :
    let e := crc8 Config.RM0 (accessHdr .read 0x44 0 ++ [0x61])
    let s := inMode .writeRead { loud with env := (scripted [.data [0x61], .data [e]]).env }
    Undisturbed s ∧ s.ctx.crcMode = .writeRead ∧ (0x44 : Word) ≠ s.cfg.REG.CRC_ECHO ∧
      ReadRequest s.cfg 0x44 0 (.read8 0x44 0) 1 (fun d => .bits8 (byteAt d 0)) ∧ ([0x61] : List Byte).length = 1 ∧
      s.env.replies = .data [0x61] :: .data [e] :: [] ∧ s.ctx.has .onSpiReadCrcError = true :=
  ⟨⟨test_wf_rm0, ⟨rfl, rfl⟩, rfl, rfl⟩, rfl, by decide +kernel, .read8, rfl, rfl, by decide +kernel⟩

theorem witness_ReadCrcMismatchFiresCallback :
    let s := inMode .writeRead { loud with env := (scripted [.data [0x61, 0x00], .data [0xA8]]).env }
    Undisturbed s ∧ s.ctx.crcMode = .writeRead ∧ (0x44 : Word) ≠ s.cfg.REG.CRC_ECHO ∧
      s.ctx.has .onSpiReadCrcError = true ∧
      ReadRequest s.cfg 0x44 0 (.read16 0x44 0) 2 (fun d => .bits16 (byteAt d 1 ++ byteAt d 0)) ∧
      ([0x61, 0x00] : List Byte).length = 2 ∧ s.env.replies = .data [0x61, 0x00] :: .data [0xA8] :: [] ∧
      crc8 s.cfg (accessHdr .read 0x44 0 ++ [0x61, 0x00]) ≠ 0xA8 :=
  ⟨⟨test_wf_rm0, ⟨rfl, rfl⟩, rfl, rfl⟩, rfl, by decide +kernel, by decide +kernel, .read16, rfl, rfl, by decide +kernel⟩

theorem witness_FastcmdSendsItsCode :
    Ready base ∧ ({ op := 0x20, addr := 31 } : CmdReq).op = 0x20 ∧ (31 : Word).toNat < 32 ∧ 32 ≤ (32 : Word).toNat :=
  ⟨⟨rfl, rfl⟩, rfl, by decide, by decide⟩

theorem witness_FastCommandsSendOneFrame : Ready (inMode .write base) := ⟨rfl, rfl⟩

/-- The lengths at and past both ends of their range. -/
theorem witness_BusFrameRowsRun :
    Undisturbed base ∧ (1 ≤ ([0x00] : List Byte).length ∧ ([0x00] : List Byte).length < base.cfg.MAX_LEN ∧
      ([0x00] : List Byte).length < 0x10000) ∧
    (1 ≤ (0x30FF : Half).toNat ∧ (0x30FF : Half).toNat < base.cfg.MAX_LEN ∧ NoAlarm base) ∧
    ((0 : Half) = 0 ∧ base.cfg.MAX_LEN ≤ (0x3100 : Half).toNat) ∧
    base.cfg.MAX_LEN ≤ (List.replicate 0x3100 (0 : Byte)).length ∧ 0x10000 ≤ (List.replicate 0x10000 (0 : Byte)).length := by
  refine ⟨base_undisturbed, by decide, ⟨by decide, by decide, .inl (by decide +kernel)⟩, by decide, ?_, ?_⟩ <;>
    rw [List.length_replicate]
  decide

theorem witness_IrqSrcModifyIsOneCriticalSection : Undisturbed (scripted [.fail true]) := scripted_undisturbed _

/-- A late start with an antenna correction; and modes that name two flavours or a bit that must be zero. -/
theorem witness_StartTxFollowsPseudocode :
    (Undisturbed (holding [(0x47, 0x08)] base) ∧ NoAlarm (holding [(0x47, 0x08)] base) ∧ NoAlarm loud) ∧
    Ready base ∧ (∀ flv w4r, (0x05 : Byte) ≠ modeByte flv w4r) ∧ ∀ flv w4r, (0x40 : Byte) ≠ modeByte flv w4r := by
  refine ⟨⟨⟨test_wf_rm0, ⟨rfl, rfl⟩, rfl, rfl⟩, .inl (by decide +kernel), .inr (by decide +kernel)⟩, ⟨rfl, rfl⟩, ?_, ?_⟩ <;>
    (intro flv w4r; cases flv <;> cases w4r <;> decide)

theorem witness_StartRxFollowsPseudocode :
    (Flavour.dlyRxTs ≠ .cca ∧ Undisturbed base ∧ NoAlarm base) ∧
    Ready base ∧ ∀ flv iol, flv ≠ .cca → (0x20 : Byte) ≠ modeByte flv iol := by
  refine ⟨⟨by decide, base_undisturbed, .inl (by decide +kernel)⟩, ⟨rfl, rfl⟩, ?_⟩
  intro flv iol h
  cases flv <;> cases iol <;> first | exact absurd rfl h | decide

theorem witness_ForceTrxOffFollowsPseudocode :
    Undisturbed (scripted [.data [0x04]]) ∧ NoAlarm (scripted [.data [0x04]]) :=
  ⟨scripted_undisturbed _, .inl (by decide +kernel)⟩

theorem witness_LateStartsAreCancelled :
    Undisturbed (scripted [.chip, .data [0x08], .chip]) ∧ base.ctx.crcMode = .off ∧
      (Flavour.dlyRef = .delayed ∨ Flavour.dlyRef = .dlyRef) ∧
      (0x08 : Byte) &&& base.cfg.M.HPDWARN.extractLsb' 24 8 ≠ 0 ∧
      (scripted [.chip, .data [0x08], .chip]).env.replies = .chip :: .data [0x08] :: .chip :: [] ∧
      (scripted [.chip, .chip, .data [0x08], .chip, .chip]).env.replies =
        .chip :: .chip :: .data [0x08] :: .chip :: .chip :: [] :=
  ⟨scripted_undisturbed _, rfl, .inr rfl, by decide, rfl, rfl⟩

theorem witness_DoubleBufferFollowsPseudocode :
    (Undisturbed (onBuffer .buffer1 base) ∧ (onBuffer .buffer1 base).ctx.dbl ≠ .off) ∧ Ready base ∧ base.ctx.dbl = .off :=
  ⟨⟨⟨test_wf_rm0, ⟨rfl, rfl⟩, rfl, rfl⟩, by decide⟩, ⟨rfl, rfl⟩, rfl⟩

theorem witness_BufferFreeAlternates :
    Undisturbed (scripted (List.replicate 6 .chip)) ∧
      (scripted (List.replicate 6 .chip)).env.replies = .chip :: .chip :: .chip :: .chip :: .chip :: .chip :: [] :=
  ⟨scripted_undisturbed _, rfl⟩

/-- A frame has landed in the first buffer. -/
theorem witness_PassFollowsPseudocode :
    let s := onBuffer .buffer0 (holding [(0x010024, 0x07), (0x180000, 0x0C)] base)
    Undisturbed s ∧ s.ctx.cb = 0 ∧ s.seq.inPass = false ∧ hasPass s.stack = false ∧ inCallback s.stack = false :=
  ⟨⟨test_wf_rm0, ⟨rfl, rfl⟩, rfl, rfl⟩, rfl, rfl, rfl, rfl⟩

/-- Over an operation in progress. -/
theorem witness_IrqPassRunsAndReturns :
    let s := { doing .cmd (.dbl .flip) base with sched := [{ irq := some true, start := true }] }
    s.cfg.wf = true ∧ Ready s ∧ s.sched = [{ irq := some true, start := true }] ∧ (tick s).env.irq = true ∧ s.ctx.cb = 0 ∧
      s.seq.inPass = false ∧ s.seq.irqMasked = false ∧ hasPass s.stack = false ∧ s.served = false ∧
      ∀ f below, s.stack ≠ .handler f :: below :=
  ⟨test_wf_rm0, ⟨rfl, rfl⟩, rfl, by decide +kernel, rfl, rfl, rfl, rfl, rfl, nofun⟩

/-- Inside a pass, inside one whose flag an `init` has cleared, and in a callback outside a pass. -/
theorem witness_IsrPassRefusedInsidePassAndCallback :
    Ready { base with seq := { base.seq with inPass := true } } ∧
    (let s := { doing .passIrq (.pass .g5Ok {}) base with seq := base.seq }
     Ready s ∧ s.seq.inPass = false ∧ hasPass s.stack = true) ∧
    (let s := { base with stack := [.handler .onSpiReadCrcError, .task { owner := .cmd, pt := .stateRead, phase := .held [0] }] }
     Ready s ∧ inCallback s.stack = true) :=
  ⟨⟨rfl, rfl⟩, ⟨⟨rfl, rfl⟩, rfl, rfl⟩, ⟨rfl, rfl⟩, rfl⟩

theorem witness_PassVisitsPointsInOrder :
    (∃ s' n, passResume .capFstat {} (.data [0x08]) base = (s', .goto n)) ∧
    (∃ s' n, passResume .capSub { fstat := 0x08 } (.data [0x07]) (onBuffer .buffer0 base) = (s', .goto n)) ∧
    ∃ s' n, passResume .g5Clr { fstat := 0x08, st := 0x6F00 } .ok base = (s', .goto n) :=
  ⟨⟨_, _, rfl⟩, ⟨_, _, rfl⟩, ⟨_, _, rfl⟩⟩

/-- A transition for each premise. -/
theorem witness_ClearOrderOfGroups :
    (∃ s', passResume .g3Cb {} (.data []) base = (s', .goto (.pass .g3Clr {}))) ∧
    (∃ s', passResume .g4Cb {} (.data []) base = (s', .goto (.pass .g4Clr {}))) ∧
    (∃ s', passResume .g2aHi {} .ok base = (s', .goto (.pass .g2aCb {}))) ∧
    (∃ s', passResume .g2aLo {} .ok base = (s', .goto (.pass .g2aHi {}))) ∧
    (∃ s', passResume .g2bHi {} .ok base = (s', .goto (.pass .g2bCb {}))) ∧
    (∃ s', passResume .g5Clr {} .ok { base with evt := { base.evt with datalen := 9 } } = (s', .goto (.pass .g5Ok {}))) ∧
    (∃ s', passResume .g5Sub {} .ok base = (s', .goto (.pass .g5Err {}))) ∧
    (∃ s', passResume .g5Clr {} .ok (onBuffer .buffer0 base) = (s', .goto (.pass .g5Sub {}))) ∧
    (∃ s', passResume .g6Clr {} .ok base = (s', .goto (.pass .g6Cb {}))) ∧
    (∃ s', passResume .g6Toggle {} .ok base = (s', .goto (.pass .g6Flip {}))) ∧
    (∃ s', passResume .g6Clr {} .ok (onBuffer .buffer0 base) = (s', .goto (.pass .g6Toggle {}))) ∧
    (∃ s', passResume .g7Flip {} .ok (onBuffer .buffer0 base) = (s', .goto (.pass .g7Cb {}))) ∧
    (∃ s', passResume .g7Toggle {} .ok base = (s', .goto (.pass .g7Flip {}))) ∧
    (∃ s', passResume .g7Clr {} .ok (onBuffer .buffer1 base) = (s', .goto (.pass .g7Toggle {}))) ∧
    (∃ s', passResume .g8Clr {} .ok base = (s', .goto (.pass .g8Cb {}))) :=
  ⟨⟨_, rfl⟩, ⟨_, rfl⟩, ⟨_, rfl⟩, ⟨_, rfl⟩, ⟨_, rfl⟩, ⟨_, rfl⟩, ⟨_, rfl⟩, ⟨_, rfl⟩, ⟨_, rfl⟩, ⟨_, rfl⟩, ⟨_, rfl⟩, ⟨_, rfl⟩,
    ⟨_, rfl⟩, ⟨_, rfl⟩, ⟨_, rfl⟩⟩

/-- A length of zero, and one of nine. -/
theorem witness_ZeroLengthIsPhyHeaderError :
    (let s := inPass .g5Clr { clr := 0x6F00 } loud
     Undisturbed s ∧ s.ctx.dbl = .off ∧ s.ctx.cb = 0xFF ∧ (s.evt.datalen = 0 ∧ s.evt.flags.noData = false) ∧
      (busWrite (accessHdr .write s.cfg.REG.STATUS_LO 0) (le32 0x6F00) s).1 = true) ∧
    (let s := inPass .g5Clr { clr := 0x6F00 } { loud with evt := { loud.evt with datalen := 9 } }
     Undisturbed s ∧ s.ctx.dbl = .off ∧ s.ctx.cb = 0xFF ∧ ¬(s.evt.datalen = 0 ∧ s.evt.flags.noData = false) ∧
      (busWrite (accessHdr .write s.cfg.REG.STATUS_LO 0) (le32 0x6F00) s).1 = true) :=
  ⟨⟨⟨test_wf_rm0, ⟨rfl, rfl⟩, rfl, rfl⟩, by decide +kernel⟩, ⟨test_wf_rm0, ⟨rfl, rfl⟩, rfl, rfl⟩, by decide +kernel⟩

theorem witness_CallbackRunsNestedAndReturns :
    (let s := inPass .g5Ok {} loud
     Undisturbed s ∧ s.stack = .task { owner := .passCmd, pt := .pass .g5Ok {}, phase := .ready } :: [] ∧
      passAction s.cfg s.ctx .g5Ok {} = .callback .onRxOk ∧ s.ctx.has .onRxOk = true) ∧
    (let s := inPass .g5Ok {} base
     Undisturbed s ∧ passAction s.cfg s.ctx .g5Ok {} = .callback .onRxOk ∧ s.ctx.has .onRxOk = false) :=
  ⟨⟨⟨test_wf_rm0, ⟨rfl, rfl⟩, rfl, rfl⟩, rfl, rfl, by decide +kernel⟩, ⟨test_wf_rm0, ⟨rfl, rfl⟩, rfl, rfl⟩, rfl, by decide +kernel⟩

/-- 95_test_vectors.md 7.33, for a requested pass and for one of the IRQ port over a foreground task. -/
theorem witness_BusErrorEndsPass :
    (let s := inPass .capStatus { fstat := 0x08 } (scripted [.fail false])
     Undisturbed s ∧ Owner.passCmd ≠ .cmd ∧
      s.stack = .task { owner := .passCmd, pt := .pass .capStatus { fstat := 0x08 }, phase := .ready } :: [] ∧
      s.env.replies = .fail false :: [] ∧ (∀ f, passAction s.cfg s.ctx .capStatus { fstat := 0x08 } ≠ .callback f) ∧
      passAction s.cfg s.ctx .capStatus { fstat := 0x08 } ≠ .silent) ∧
    Owner.passIrq ≠ .cmd :=
  ⟨⟨⟨test_wf_rm0, ⟨rfl, rfl⟩, rfl, rfl⟩, nofun, rfl, rfl, nofun, nofun⟩, nofun⟩

/-- A pass by request, and one of the IRQ port. -/
theorem witness_PassStartsOnlyWhenAllowed :
    (∃ t, step (given (.cmd { op := 0x50 }) base) = .next t ∧ base.seq.inPass = false ∧ t.seq.inPass = true ∧
      passCount base.stack < passCount t.stack) ∧
    ∃ t, step { base with sched := [{ irq := some true, start := true }] } = .next t ∧ base.seq.inPass = false ∧
      t.seq.inPass = true ∧ passCount base.stack < passCount t.stack := by
  refine ⟨step_goes _ _ ?_ ?_, step_goes _ _ ?_ ?_⟩ <;> decide +kernel

/-- With an answer, and with a `BusError`. -/
theorem witness_PassEntrySequence :
    (let s := { base with sched := [{ irq := some true, start := true }] }
     s.cfg.wf = true ∧ Ready s ∧ (boundary s).power = false ∧ (boundary s).start = true ∧ (tick s).env.irq = true ∧
      s.seq.inPass = false ∧ s.seq.irqMasked = false ∧ hasPass s.stack = false ∧ s.served = false ∧
      (∀ f below, s.stack ≠ .handler f :: below) ∧
      (busRead (accessHdr .read s.cfg.REG.FSTAT 0) 1 (tick s)).1 ≠ none) ∧
    (busRead (accessHdr .read 0x1F0000 0) 1 (tick { scripted [.fail true] with sched := [{ irq := some true }] })).1 =
      none := by
  refine ⟨⟨test_wf_rm0, ⟨rfl, rfl⟩, rfl, rfl, by decide +kernel, rfl, rfl, rfl, rfl, nofun, ?_⟩, ?_⟩ <;> decide +kernel

/-- A foreground task on top, and a handler over its task. -/
theorem witness_LowerContinuationsUntouched :
    (∃ t, step (doing .cmd (.dbl .flip) base) = .next t ∧ (boundary base).power = false) ∧
    ∃ t, step { loud with
        stack := [.handler .onRxOk, .task { owner := .passCmd, pt := .pass .g5Ok {}, phase := .held [] }]
        inputs := [.ret] } = .next t ∧ (boundary loud).power = false := by
  refine ⟨step_goes _ _ ?_ ?_, step_goes _ _ ?_ ?_⟩ <;> decide +kernel

theorem witness_OneTransactionPerStep : ∃ t, step (given (.cmd { op := 0x11 }) base) = .next t ∧ t.trace.length = 2 := by
  refine step_goes _ _ ?_ ?_ <;> decide +kernel

/-- An action of a pass; a pass that starts; and the return of a handler into a pass. -/
theorem witness_RecordWriters :
    (∃ t, step (inPass .g2bHi {} base) = .next t ∧ (boundary base).power = false ∧ t.evt ≠ base.evt) ∧
    (∃ t, step { base with evt := { base.evt with dss := 3 }, sched := [{ irq := some true, start := true }] } = .next t ∧
      t.evt ≠ { base.evt with dss := 3 }) ∧
    ∃ t, step { inPass .g4Clr {} loud with
        stack := [.handler .onSpiReadCrcError,
          .task { owner := .passCmd, pt := .pass .g2Hi { fstat := 0x80 }, phase := .held [0x80, 0x03] }]
        inputs := [.ret] } = .next t ∧ t.evt ≠ loud.evt := by
  refine ⟨step_goes _ _ ?_ ?_, step_goes _ _ ?_ ?_, step_goes _ _ ?_ ?_⟩ <;> decide +kernel

theorem witness_ConfigurationConstant : ∃ t, Sys2Proof.core.run 0 State.reset = .next t :=
  ⟨_, rfl⟩

theorem witness_StepRunsDecodedInstruction :
    base.cfg.wf = true ∧ base.seq.halted = false ∧ base.sched = [] ∧ (∀ x below, base.stack ≠ .task x :: below) ∧
    (given (.cmd { op := 0x50 }) base).inputs = .cmd { op := 0x50 } :: [] ∧
    decode base.cfg (.cmd { op := 0x50 }) = some (.instr .isrPass) ∧ base.inputs = [] :=
  ⟨test_wf_rm0, by decide, by decide, fun _ _ h => List.cons_ne_nil _ _ h.symm, by decide +kernel, by decide +kernel, by decide⟩

/-- The four accessors and `transact`, and the two write frames, with the shortest and the longest payload; with and
without a trailer. -/
theorem witness_WritesStoreTheirBytes :
    base.cfg.wf = true ∧ Ready base ∧ CrcAgree base ∧ CrcAgree (inMode .write base) ∧ memWf base.env.chip.mem = true ∧
    (∃ t, exec (.write8 0x44 3 0xFF) base = .next t) ∧ (∃ t, exec (.write32 0x90008 0 0) (inMode .write base) = .next t) ∧
    lenWf base.cfg (List.replicate 0x30FF (0 : Byte)).length = true ∧ lenWf base.cfg [(0x01 : Byte)].length = true ∧
    (∃ t, exec (.transact 0x44 0 1 0x8000 false [0x01]) base = .next t) ∧
    (∃ t, exec (.busWrShort 0x1B [0x01]) base = .next t) ∧ ∃ t, exec (.busWrExt 0x1F 0x7F [0x01]) base = .next t := by
  refine ⟨test_wf_rm0, ⟨rfl, rfl⟩, rfl, rfl, rfl, ⟨_, rfl⟩, ⟨_, rfl⟩, ?_, by decide, ⟨_, eq_next ?_⟩, ⟨_, eq_next ?_⟩,
    ⟨_, eq_next ?_⟩⟩
  · rw [List.length_replicate]; decide
  all_goals decide +kernel

theorem witness_ModifiesAndThenOr :
    base.cfg.wf = true ∧ Ready base ∧ CrcAgree base ∧ memWf base.env.chip.mem = true ∧ 8 < base.cfg.MAX_LEN ∧
    (∃ t, exec (.modify8 0x44 3 0 0xFF) base = .next t) ∧
    (∃ t, exec (.modify32 0x10 0 0 0xFFFFFFFF) base = .next t) ∧
    (∃ t, exec (.transact 0x44 0 2 0x8001 false ([0x01] ++ [0x02])) base = .next t) ∧
    (∃ t, exec (.transact 0x44 0 8 0x8003 false ([1, 2, 3, 4] ++ [5, 6, 7, 8])) base = .next t) ∧
    (∃ t, exec (.busMod8 0x1F 0x7F 0 0) base = .next t) ∧ ∃ t, exec (.busMod32 0 0 0 0xFFFFFFFF) base = .next t := by
  refine ⟨test_wf_rm0, ⟨rfl, rfl⟩, rfl, rfl, by decide, ⟨_, rfl⟩, ⟨_, rfl⟩, ⟨_, eq_next ?_⟩, ⟨_, eq_next ?_⟩, ⟨_, rfl⟩, ⟨_, rfl⟩⟩
  all_goals decide +kernel

/-- With ends that agree, and with ends that do not, away from the low status word. -/
theorem witness_NonStoringFormsLeaveMemory :
    (∃ t, exec (.read32 0x44 0) base = .next t) ∧ (∃ t, exec .fcDbToggle base = .next t) ∧
    ((0x0000 : Half) = 0x0000 ∧ ∃ t, exec (.transact 0x44 0 1 0x0000 false []) base = .next t) ∧
    (∃ t, exec (.transact 0x02 0 0 0x8000 true []) base = .next t) ∧ CrcAgree base ∧
    ¬CrcAgree (chipCrc true base) ∧ 0x48 ∉ accessKeys base.cfg.REG.STATUS_LO 0 4 := by
  refine ⟨⟨_, rfl⟩, ⟨_, rfl⟩, ⟨rfl, _, eq_next ?_⟩, ⟨_, eq_next ?_⟩, rfl, nofun, ?_⟩ <;> decide +kernel

/-- The states, and an address outside the registers named, next to one of them. -/
theorem witness_OperationsStoreOnlyTheirRegisters :
    Undisturbed base ∧ CrcAgree base ∧ NoAlarm base ∧ Undisturbed (onBuffer .buffer0 base) ∧
    (onBuffer .buffer0 base).ctx.dbl ≠ .off ∧ base.ctx.cb = 0 ∧ base.seq.inPass = false ∧ hasPass base.stack = false ∧
    inCallback base.stack = false ∧ (0x000030 : Nat) ∉ accessKeys base.cfg.REG.DX_TIME 0 4 ∧ (0x09000A : Nat) ∉ accessKeys base.cfg.REG.PLL_COMMON 0 2 ∧
    (0x000014 : Nat) ∉ accessKeys base.cfg.REG.SYS_CFG 0 4 ∧ (0x000014 : Nat) ∉ accessKeys base.cfg.REG.IND_ADDR 0 4 ∧
    (0x000014 : Nat) ∉ accessKeys base.cfg.REG.IND_OFFSET 0 4 ∧
    (0x000014 : Nat) ∉ accessKeys base.cfg.REG.DIAG_CFG base.cfg.DIAG_BYTE_OFF 1 ∧
    (0x000040 : Nat) ∉ accessKeys base.cfg.REG.IRQ_EN_LO 0 4 ∧
    (0x00004A : Nat) ∉ accessKeys base.cfg.REG.STATUS_LO 0 4 ∧
    (0x00004A : Nat) ∉ accessKeys base.cfg.REG.STATUS_HI 0 (hiLen base.cfg) ∧
    (0x00004A : Nat) ∉ accessKeys base.cfg.REG.RDB_STATUS 0 1 ∧
    (0x00004A : Nat) ∉ accessKeys base.cfg.REG.DSS_STAT 0 1 ∧
    (0x00004A : Nat) ∉ accessKeys base.cfg.REG.PLL_COMMON 0 2 :=
  ⟨base_undisturbed, rfl, .inl (by decide +kernel), ⟨test_wf_rm0, ⟨rfl, rfl⟩, rfl, rfl⟩, by decide +kernel⟩

/-- Each clause: a trailer too many, and one too few, of a write, a modify and a fast command. -/
theorem witness_CrcModeMismatchOnChip :
    base.cfg.wf = true ∧ Ready base ∧ memWf base.env.chip.mem = true ∧ reachesChip 0 base.env = true ∧
    (let s := chipCrc false (inMode .write base)
     (∃ t, exec (.write32 0x44 0 1) s = .next t) ∧ s.ctx.crcMode ≠ .off ∧ s.env.chip.crcOn = false) ∧
    (let s := chipCrc true base
     (∃ t, exec (.write8 0x010004 0 0x01) s = .next t) ∧ (∃ t, exec (.modify8 0x0E0000 2 0xEF 0x00) s = .next t) ∧
      (∃ t, exec (.fastcmd 0x01) s = .next t) ∧ s.ctx.crcMode = .off ∧ s.env.chip.crcOn = true ∧
      crc8 s.cfg (accessHdr .write 0x010004 0 ++ [(0x01 : Byte)].dropLast) ≠ [(0x01 : Byte)].getLastD 0 ∧
      crc8 s.cfg (accessHdr .mod8 0x0E0000 2 ++ [(0xEF : Byte), 0x00].dropLast) ≠ [(0xEF : Byte), 0x00].getLastD 0) := by
  refine ⟨test_wf_rm0, ⟨rfl, rfl⟩, rfl, rfl, ⟨⟨_, rfl⟩, by decide, rfl⟩, ⟨_, rfl⟩, ⟨_, rfl⟩, ⟨_, eq_next ?_⟩, rfl, rfl, ?_, ?_⟩ <;>
    decide +kernel

/-- The last address of the register space. -/
theorem witness_ChipMovesByItself : 0x1FFFFF < spaceSize := by decide

/-- A read of the echo register, and one of another. -/
theorem witness_ReadLeavesItsCrcInEcho :
    1 ≤ (1 : Nat) ∧ ((0x00 : File) = fileOf Config.RM0.REG.CRC_ECHO ∧ (0x18 : Sub) = subOf Config.RM0.REG.CRC_ECHO) ∧
      ¬((0x00 : File) = fileOf Config.RM0.REG.CRC_ECHO ∧ (0x44 : Sub) = subOf Config.RM0.REG.CRC_ECHO) := by
  decide +kernel

/-- A code of each list. -/
theorem witness_FastCommandOnChip :
    Config.RM0.wf = true ∧ (0x00 : File) = Config.RM0.FC.TXRXOFF ∧ (0x11 : File) = Config.RM0.FC.CCA_TX_W4R ∧
      (0x0A : File) = Config.RM0.FC.DRX_REF ∧ (0x13 : File) = Config.RM0.FC.DB_TOGGLE := by decide +kernel

theorem reset_invariant_data :
    memWf State.reset.env.chip.mem = true ∧ stackOk State.reset.stack = true ∧
      State.reset.seq.irqMasked = topMasked State.reset.stack := by decide +kernel

/-- A machine inside a critical section, whose step goes on. -/
theorem witness_InvariantKeptByEveryStep :
    let s := { doing .cmd (.crit (.run false) .trxOff) base with
      seq := { base.seq with irqMasked := true }, env := { base.env with platMask := true } }
    Invariant s ∧ ∃ t, step s = .next t := by
  refine ⟨⟨rfl, rfl, rfl, fun _ => rfl, nofun, by simp [doing, passCount, Entry.isPass, Task.isPass], nofun, nofun, fun _ => by show EventRec.zero.statusHi.toNat < _; decide⟩,
    ⟨_, eq_next ?_⟩⟩
  decide +kernel

end Sys2Proof.Tests
end

section
/-! SUPPORT. What every step keeps, every run keeps; and the configuration, which no step writes. -/

namespace Sys2Proof.Proofs

open Sys2Proof.Machine Sys2Proof.Laws

/-- A run of one step more is a step that goes on, and a run from where it leads. -/
theorem run_succ_next {k : Nat} {s t : State} (h : Sys2Proof.core.run (k + 1) s = .next t) :
    ∃ u, step s = .next u ∧ Sys2Proof.core.run k u = .next t := by
  simp only [Host.Core.run] at h
  split at h
  · next u hu => exact ⟨u, hu, h⟩
  · exact absurd h nofun
  · exact absurd h nofun

/-- The induction over a run. -/
theorem run_keeps {P : State → Prop} (hstep : ∀ s t, P s → step s = .next t → P t) (k : Nat) (s t : State)
    (hs : P s) (h : Sys2Proof.core.run k s = .next t) : P t := by
  induction k generalizing s with
  | zero => cases h; exact hs
  | succ k ih =>
    obtain ⟨u, hu, hrun⟩ := run_succ_next h
    exact ih u (hstep s u hs hu) hrun

theorem fetch_keeps_cfg (s t : State) (h : fetch s = .next t) : t.cfg = s.cfg := by
  rcases fetch_cases s t h with ⟨-, rfl⟩ | ⟨i, inp, rest, -, -, hexec⟩ | ⟨rest, f, x, below, -, -, rfl⟩
  · rfl
  · exact (exec_frame i _ t hexec).1
  · exact (settle_frame x _ _).1

theorem step_keeps_cfg (s t : State) (h : step s = .next t) : t.cfg = s.cfg := by
  obtain ⟨-, ⟨-, rfl⟩ | ⟨-, -, ⟨-, -, rfl⟩ | ⟨x, below, -, rfl⟩ | ⟨-, hfetch⟩⟩⟩ := step_cases s t h
  · rw [powerCycle_cfg, tick_cfg]
  · rw [(startPass_frame .passIrq (tick s)).1, tick_cfg]
  · exact (runTask_frame x _).cfg.trans (tick_cfg s)
  · rw [fetch_keeps_cfg _ t hfetch, tick_cfg]

/-- Settles O49: no step writes the configuration, so no run does, by induction on its steps. -/
theorem configurationConstant : Obligations.ConfigurationConstant :=
  fun k s t h => run_keeps (P := fun u => u.cfg = s.cfg) (fun u v hu hstep => (step_keeps_cfg u v hstep).trans hu)
    k s t rfl h

end Sys2Proof.Proofs
end

section
/-! SUPPORT. What a step without a power cycle does, said once, and that it keeps the invariant of Safety.lean. -/

namespace Sys2Proof.Proofs

open Sys2Proof.Machine Sys2Proof.Laws

/-! ## A step without a power cycle -/

/-- Everything a step without a power cycle can do. -/
inductive StepEffect (s : State) : State → Prop where
  /-- a pass starts from the IRQ port -/
  | passStarts (hb : (boundary s).start = true) (hm : passMayStart (tick s) = true) :
      StepEffect s (startPass .passIrq (tick s))
  /-- the operation in progress takes its next action -/
  | taskRuns (x : Task) (below : List Entry) (hst : s.stack = .task x :: below) :
      StepEffect s (runTask x { tick s with stack := below, served := false })
  /-- the block waits -/
  | waits : StepEffect s (tick s)
  /-- the next input is an instruction -/
  | executes (i : Instr) (rest : List Input) (t : State) (hf : fetches s i)
      (he : exec i { tick s with inputs := rest } = .next t) : StepEffect s t
  /-- the handler on top returns -/
  | handlerReturns (f : CallbackId) (x : Task) (below : List Entry) (rest : List Input)
      (hst : s.stack = .handler f :: .task x :: below) (hin : s.inputs = .ret :: rest) :
      StepEffect s (settle x (.data x.phase.heldData) { tick s with stack := below, inputs := rest })

/-- A step is a power cycle at its boundary, or has one of these effects. -/
theorem step_powerCycle_or_effect {s t : State} (h : step s = .next t) :
    ((boundary s).power = true ∧ t = powerCycle (tick s)) ∨ ((boundary s).power = false ∧ StepEffect s t) := by
  obtain ⟨-, hpower | ⟨hp, -, hrest⟩⟩ := step_cases s t h
  · exact .inl hpower
  refine .inr ⟨hp, ?_⟩
  rcases hrest with ⟨hb, hm, rfl⟩ | ⟨x, below, hst, rfl⟩ | ⟨hn, hfetch⟩
  · exact .passStarts hb hm
  · exact .taskRuns x below hst
  rcases fetch_cases _ t hfetch with ⟨-, rfl⟩ | ⟨i, inp, rest, hin, hdec, he⟩ | ⟨rest, f, x, below, hin, hst, rfl⟩
  · exact .waits
  · simp only [tick_inputs, tick_cfg] at hin hdec
    exact .executes i rest t ⟨hn, inp, rest, hin, hdec⟩ he
  · simp only [tick_inputs, tick_stack] at hin hst
    exact .handlerReturns f x below rest hst hin

theorem step_effect {s t : State} (h : step s = .next t) (hp : (boundary s).power = false) : StepEffect s t := by
  rcases step_powerCycle_or_effect h with ⟨hp', -⟩ | ⟨-, eff⟩
  · exact absurd (hp.symm.trans hp') nofun
  · exact eff

/-! ## The invariant -/

theorem zeroRecord_statusHi_lt : EventRec.zero.statusHi.toNat < 0x10000 := by decide

theorem powerCycle_inv (s : State) (h : Invariant s) : Invariant (powerCycle s) :=
  ⟨h.memory, rfl, rfl, nofun, nofun, Nat.zero_le 1, nofun, nofun, fun _ => zeroRecord_statusHi_lt⟩

/-- A pass of the IRQ port may stand on anything but a task inside its critical section. -/
theorem mayStandOn_passIrq {t : Task} {below : List Entry} (ht : t.owner = .passIrq) (hb : topMasked below = false) :
    mayStandOn t below = true := by
  cases below with
  | nil => rfl
  | cons e rest =>
    cases e with
    | handler f => rfl
    | task u => simpa [mayStandOn, topMasked, ht] using hb

theorem startPassIrq_inv (s : State) (h : Invariant s) (hm : passMayStart s = true) :
    Invariant (startPass .passIrq s) := by
  simp only [passMayStart, Bool.and_eq_true, Bool.not_eq_true'] at hm
  obtain ⟨⟨⟨⟨⟨⟨-, -⟩, hmask⟩, -⟩, hpass⟩, hserved⟩, -⟩ := hm
  exact startPass_inv .passIrq nofun s h hpass hserved (mayStandOn_passIrq rfl (h.masked ▸ hmask)) hmask

/-- What the invariant gives an action of the task on top. -/
theorem runPre_of_inv {s : State} {x : Task} {below : List Entry} (h : Invariant s) (hst : s.stack = .task x :: below) :
    RunPre x { s with stack := below, served := false } := by
  have hstack := h.stack
  rw [hst] at hstack
  simp only [stackOk, Bool.and_eq_true, Bool.not_eq_true'] at hstack
  obtain ⟨⟨⟨hheld, hcoh⟩, hstand⟩, hbelow⟩ := hstack
  exact ⟨h.memory, hbelow, hstand, hcoh, hheld, by rw [h.masked, hst]; rfl, h.platform, fun hp => hst ▸ h.inPass hp,
    hst ▸ h.onePass, rfl, h.halted, h.statusHi⟩

/-- A task whose callback runs is at a point where one can. -/
theorem canCallBack_of_held {x : Task} (hh : x.isHeld = true) (hc : x.coherent = true) : canCallBack x.pt = true := by
  unfold Task.isHeld at hh
  unfold Task.coherent at hc
  split at hh
  · next d hd => simpa [hd] using hc
  all_goals exact absurd hh nofun

/-- The stack under a running handler. -/
theorem stackOk_handler {f : CallbackId} {x : Task} {below : List Entry}
    (h : stackOk (.handler f :: .task x :: below) = true) :
    canCallBack x.pt = true ∧ mayStandOn x below = true ∧ stackOk below = true := by
  simp only [stackOk, Bool.and_eq_true] at h
  obtain ⟨⟨⟨hheld, hcoh⟩, hstand⟩, hbelow⟩ := h
  exact ⟨canCallBack_of_held hheld hcoh, hstand, hbelow⟩

/-- What the invariant gives the return of the handler on top. -/
theorem settlePre_of_inv {s : State} {f : CallbackId} {x : Task} {below : List Entry} (rest : List Input)
    (h : Invariant s) (hst : s.stack = .handler f :: .task x :: below) :
    SettlePre x { s with stack := below, inputs := rest } := by
  obtain ⟨hcan, hstand, hbelow⟩ := stackOk_handler (hst ▸ h.stack)
  have hmask : s.seq.irqMasked = false := by rw [h.masked, hst]; rfl
  have hserved : s.served = false := by
    rw [← Bool.not_eq_true]
    exact fun hs => absurd (hst ▸ h.due hs) nofun
  refine ⟨h.memory, hbelow, hstand, hmask.trans (canCallBack_notMasked hcan).2.symm, h.platform, fun hp => ?_, ?_,
    hserved, h.halted, h.statusHi⟩
  · have := h.inPass hp
    rwa [hst] at this
  · have := h.onePass
    rwa [hst, passCount_handler] at this

theorem stepEffect_inv {s t : State} (h : Invariant s) (eff : StepEffect s t) : Invariant t := by
  have htick := tick_inv s h
  cases eff with
  | passStarts _ hm => exact startPassIrq_inv _ htick hm
  | taskRuns x below hst => exact runTask_inv _ _ (runPre_of_inv htick (by simpa using hst))
  | waits => exact htick
  | executes i rest _ hf he =>
    exact exec_inv i { tick s with inputs := rest } t
      ⟨htick.memory, htick.stack, htick.masked, htick.platform, htick.inPass, htick.onePass, htick.due, htick.halted,
        htick.statusHi⟩ (by simpa using hf.1) he
  | handlerReturns f x below rest hst _ => exact settle_inv _ _ _ (settlePre_of_inv rest htick (by simpa using hst))

/-- Settles O60: a power cycle clears what the invariant speaks of, and every other effect of a step keeps it. -/
theorem invariantKeptByEveryStep : Obligations.InvariantKeptByEveryStep := by
  intro s t h hstep
  rcases step_powerCycle_or_effect hstep with ⟨-, rfl⟩ | ⟨-, eff⟩
  · exact powerCycle_inv _ (tick_inv s h)
  · exact stepEffect_inv h eff

/-- Settles O59: each clause holds of the written-out reset state. -/
theorem invariantAtReset : Obligations.InvariantAtReset :=
  ⟨reset_memWf, rfl, rfl, nofun, nofun, Nat.zero_le 1, nofun, nofun, fun _ => zeroRecord_statusHi_lt⟩

end Sys2Proof.Proofs
end

section
/-! SUPPORT. Who writes the context, `ctx.dbl` and the event record, and how many messages a step sends: from what a step
can do, and what follows one action. -/

namespace Sys2Proof.Proofs

open Sys2Proof.Machine Sys2Proof.Laws

/-! ## Messages -/

/-- The messages of one step: none are removed, at most two are added, at most one of them of the bus. -/
theorem stepEffect_trace {s t : State} (eff : StepEffect s t) :
    ∃ es, t.trace = es ++ s.trace ∧ es.length ≤ 2 ∧ (es.filter Event.isBus).length ≤ 1 := by
  rw [← tick_trace s]
  cases eff with
  | passStarts =>
    obtain ⟨-, -, -, -, -, -, htrace⟩ := startPass_frame .passIrq (tick s)
    exact htrace
  | taskRuns x below => exact (runTask_frame x { tick s with stack := below, served := false }).trace
  | waits => exact ⟨[], rfl, Nat.zero_le 2, Nat.zero_le 1⟩
  | executes i rest _ _ he =>
    obtain ⟨-, -, -, -, htrace⟩ := exec_frame i { tick s with inputs := rest } t he
    exact htrace
  | handlerReturns f x below rest =>
    exact (settle_taskFrame x _ { tick s with stack := below, inputs := rest } (tick s).env (tick s).seq.irqMasked []
      (Nat.zero_le 1)).trace

/-- Settles O47: a power cycle sends nothing, and every other effect of a step is one action. -/
theorem oneTransactionPerStep : Obligations.OneTransactionPerStep := by
  intro s t hstep
  rcases step_powerCycle_or_effect hstep with ⟨-, rfl⟩ | ⟨-, eff⟩
  · exact ⟨[], tick_trace s, Nat.zero_le 2, Nat.zero_le 1⟩
  · exact stepEffect_trace eff

/-! ## The context but for `ctx.dbl` -/

/-- How a step without a power cycle leaves the context, but for `ctx.dbl`: as it was, or as `init`, `deinit` or a setter
leaves it. -/
theorem stepEffect_ctx {s t : State} (eff : StepEffect s t) :
    t.ctx = { s.ctx with dbl := t.ctx.dbl } ∨ fetches s .init ∨ fetches s .deinit ∨
      ∃ i, fetches s i ∧ setterResult i s.ctx = some t.ctx := by
  rw [← tick_ctx s]
  cases eff with
  | passStarts =>
    obtain ⟨-, hctx, -⟩ := startPass_frame .passIrq (tick s)
    exact .inl hctx
  | taskRuns x below => exact .inl (runTask_frame x _).ctx
  | waits => exact .inl rfl
  | handlerReturns f x below rest =>
    obtain ⟨-, hctx, -⟩ := settle_frame x (.data x.phase.heldData) { tick s with stack := below, inputs := rest }
    exact .inl hctx
  | executes i rest _ hf he =>
    cases (exec_effect i _ t he).2 with
    | answered => exact .inl rfl
    | initialized hi => exact .inr (.inl (hi ▸ hf))
    | deinitialized hi => exact .inr (.inr (.inl (hi ▸ hf)))
    | set x hx => exact .inr (.inr (.inr ⟨i, hf, hx⟩))
    | halts => exact .inl rfl
    | started => exact .inl (runTask_frame _ _).ctx
    | pass =>
      obtain ⟨-, hctx, -⟩ := startPass_frame .passCmd { tick s with inputs := rest }
      exact .inl hctx

/-- A setter and the fields it writes (46_context_ops.md R353 to R359). -/
inductive Sets (x : Ctx) : Instr → Ctx → Prop where
  | channel (ch : Byte) : Sets x (.setChannel ch) { x with channel := ch }
  | sts (mode len : Byte) : Sets x (.setSts mode len) { x with stsMode := mode, stsLen := len }
  | crcMode (m : BitVec 2) (mode : CrcMode) : Sets x (.setCrcMode m) { x with crcMode := mode }
  | fceDis (b : Bool) : Sets x (.setFceDis b) { x with fceDis := b }
  | zeroLenOk (b : Bool) : Sets x (.setZeroLenOk b) { x with zeroLenOk := b }
  | longFrames (b : Bool) : Sets x (.setLongFrames b) { x with longFrames := b }
  | callback (id : BitVec 3) (present : Bool) (cb : Byte) : Sets x (.setCallback id present) { x with cb }

theorem sets_of_setterResult {i : Instr} {x y : Ctx} (h : setterResult i x = some y) : Sets x i y := by
  cases i with
  | setCrcMode m =>
    obtain ⟨mode, -, rfl⟩ := Option.map_eq_some_iff.1 h
    exact .crcMode m mode
  | setChannel ch => exact Option.some.inj h ▸ .channel ch
  | setSts mode len => exact Option.some.inj h ▸ .sts mode len
  | setFceDis b => exact Option.some.inj h ▸ .fceDis b
  | setZeroLenOk b => exact Option.some.inj h ▸ .zeroLenOk b
  | setLongFrames b => exact Option.some.inj h ▸ .longFrames b
  | setCallback id present => exact Option.some.inj h ▸ .callback id present _
  | _ => exact absurd h nofun

/-- Settles O5: a step leaves a field as it was, or takes `init`, `deinit` or a setter, and a setter leaves every field but
its own. -/
theorem contextFieldWriters : Obligations.ContextFieldWriters := by
  intro s t hstep hp
  rcases stepEffect_ctx (step_effect hstep hp) with hctx | hinit | hdeinit | ⟨i, hf, hi⟩
  · rw [hctx]
    simp
  · simp [hinit]
  · simp [hdeinit]
  · generalize t.ctx = y at hi ⊢
    cases sets_of_setterResult hi with
    | channel ch => simp [show ∃ c, fetches s (.setChannel c) from ⟨ch, hf⟩]
    | sts mode len => simp [show ∃ m l, fetches s (.setSts m l) from ⟨mode, len, hf⟩]
    | crcMode m => simp [show ∃ m, fetches s (.setCrcMode m) from ⟨m, hf⟩]
    | fceDis b => simp [show ∃ b, fetches s (.setFceDis b) from ⟨b, hf⟩]
    | zeroLenOk b => simp [show ∃ b, fetches s (.setZeroLenOk b) from ⟨b, hf⟩]
    | longFrames b => simp [show ∃ b, fetches s (.setLongFrames b) from ⟨b, hf⟩]
    | callback id present =>
      have hcb : ∃ id p, fetches s (.setCallback id p) := ⟨id, present, hf⟩
      simp [-Bool.exists_bool, hcb]

/-! ## What one action writes: `ctx.dbl` and the record -/

@[simp] theorem finish_ctx (o : Owner) (r : Result) (s : State) : (finish o r s).ctx = s.ctx := by
  cases o <;> rfl

@[simp] theorem finish_evt (o : Owner) (r : Result) (s : State) : (finish o r s).evt = s.evt := by
  cases o <;> rfl

theorem settle_ctx (x : Task) (r : ActResult) (s : State) : (settle x r s).ctx = (resumeAt x.pt r s).1.ctx := by
  unfold settle
  dsimp only
  split <;> simp

theorem settle_evt (x : Task) (r : ActResult) (s : State) : (settle x r s).evt = (resumeAt x.pt r s).1.evt := by
  unfold settle
  dsimp only
  split <;> simp

/-- The points after which `ctx.dbl` is written, and the value it gets from `d` (10_state.md R25, R34). -/
inductive DblWrite (d : Dbl) : Point → Dbl → Prop where
  | enable : DblWrite d (.dbl .enSet) .buffer0
  | disable : DblWrite d (.dbl .disSet) .off
  | free : DblWrite d (.dbl .flip) d.other
  | pass (q : PassPt) (v : Snap) (hq : q = .g5Flip ∨ q = .g6Flip ∨ q = .g7Flip) : DblWrite d (.pass q v) d.other

/-- No operation starts at such a point. -/
theorem DblWrite.not_entry {d d' : Dbl} {p : Point} (h : DblWrite d p d') : isEntry p = false := by
  cases h <;> rfl

/-- No pass starts at such a point. -/
theorem DblWrite.not_first {d d' : Dbl} {v : Snap} (h : DblWrite d (.pass .capFstat v) d') : False := by
  cases h with
  | pass _ _ hq => simp at hq

/-- No callback runs at such a point. -/
theorem DblWrite.not_callBack {d d' : Dbl} {p : Point} (h : DblWrite d p d') : canCallBack p = false := by
  cases h with
  | pass q v hq => rcases hq with rfl | rfl | rfl <;> rfl
  | _ => rfl

theorem dblResume_dbl (p : DblPt) (r : ActResult) (s : State) :
    (dblResume p r s).1.ctx.dbl = s.ctx.dbl ∨ DblWrite s.ctx.dbl (.dbl p) (dblResume p r s).1.ctx.dbl := by
  cases p with
  | enSet => exact .inr .enable
  | disSet => exact .inr .disable
  | flip => exact .inr .free
  | _ => exact .inl rfl

theorem passResume_dbl (p : PassPt) (v : Snap) (r : ActResult) (s : State) :
    (passResume p v r s).1.ctx.dbl = s.ctx.dbl ∨ DblWrite s.ctx.dbl (.pass p v) (passResume p v r s).1.ctx.dbl := by
  unfold passResume
  split
  · exact .inl rfl
  · obtain ⟨v', s0, hon, -, -, hctx, -⟩ := passFollow_onward p v r.bytes s
    rw [hon.ctx, hctx]
    split
    · next hq => exact .inr (.pass p v hq)
    · exact .inl rfl

theorem resumeAt_dbl (p : Point) (r : ActResult) (s : State) :
    (resumeAt p r s).1.ctx.dbl = s.ctx.dbl ∨ DblWrite s.ctx.dbl p (resumeAt p r s).1.ctx.dbl := by
  cases p with
  | dbl p => exact dblResume_dbl p r s
  | pass p v => exact passResume_dbl p v r s
  | _ => exact .inl rfl

theorem settle_dbl (x : Task) (r : ActResult) (s : State) :
    (settle x r s).ctx.dbl = s.ctx.dbl ∨ DblWrite s.ctx.dbl x.pt (settle x r s).ctx.dbl := by
  rw [settle_ctx]
  exact resumeAt_dbl x.pt r s

theorem actionEffect_dbl {x : Task} {s t : State} (eff : ActionEffect x s t) :
    t.ctx.dbl = s.ctx.dbl ∨ DblWrite s.ctx.dbl x.pt t.ctx.dbl := by
  cases eff with
  | settled r e m es => exact settle_dbl x r _
  | waiting => exact .inl rfl
  | called => exact .inl rfl

/-- One action writes `ctx.dbl` only at the points of `DblWrite`. -/
theorem runTask_dbl (x : Task) (s : State) :
    (runTask x s).ctx.dbl = s.ctx.dbl ∨ DblWrite s.ctx.dbl x.pt (runTask x s).ctx.dbl :=
  actionEffect_dbl (runTask_effect x s)

/-- The first action of a pass leaves `ctx.dbl`. -/
theorem startPass_dbl (o : Owner) (s : State) : (startPass o s).ctx.dbl = s.ctx.dbl :=
  (runTask_dbl _ (enterPass s)).resolve_right DblWrite.not_first

theorem exec_dbl {i : Instr} {s t : State} (he : exec i s = .next t) (hd : t.ctx.dbl ≠ s.ctx.dbl) :
    i = .init ∨ i = .deinit := by
  cases (exec_effect i s t he).2 with
  | answered => exact absurd rfl hd
  | initialized hi => exact .inl hi
  | deinitialized hi => exact .inr hi
  | set x hx =>
    cases sets_of_setterResult hx <;> exact absurd rfl hd
  | halts => exact absurd rfl hd
  | started p hp =>
    have hw := (runTask_dbl { owner := .cmd, pt := p, phase := .ready } s).resolve_left hd
    exact absurd (hp.symm.trans hw.not_entry) nofun
  | pass => exact absurd (startPass_dbl .passCmd s) hd

/-- A step without a power cycle writes `ctx.dbl` at `init`, at `deinit`, or with the action of the task on top. -/
theorem stepEffect_dbl {s t : State} (h : Invariant s) (eff : StepEffect s t) (hd : t.ctx.dbl ≠ s.ctx.dbl) :
    fetches s .init ∨ fetches s .deinit ∨
      ∃ x below, s.stack = .task x :: below ∧ DblWrite s.ctx.dbl x.pt t.ctx.dbl := by
  rw [← tick_ctx s] at hd ⊢
  cases eff with
  | passStarts => exact absurd (startPass_dbl .passIrq (tick s)) hd
  | taskRuns x below hst => exact .inr (.inr ⟨x, below, hst, (runTask_dbl x _).resolve_left hd⟩)
  | waits => exact absurd rfl hd
  | executes i rest _ hf he =>
    rcases exec_dbl he hd with rfl | rfl
    · exact .inl hf
    · exact .inr (.inl hf)
  | handlerReturns f x below rest hst =>
    have hw := (settle_dbl x _ _).resolve_left hd
    obtain ⟨hcan, -⟩ := stackOk_handler (hst ▸ h.stack)
    exact absurd (hcan.symm.trans hw.not_callBack) nofun

theorem other_eq (d : Dbl) : d.other = if d = .buffer0 then .buffer1 else .buffer0 := by
  cases d <;> rfl

theorem DblWrite.cases_point {d d' : Dbl} {p : Point} (h : DblWrite d p d') :
    (p = .dbl .enSet ∧ d' = .buffer0) ∨ (p = .dbl .disSet ∧ d' = .off) ∨
      ((p = .dbl .flip ∨ (∃ v, p = .pass .g5Flip v ∨ p = .pass .g6Flip v ∨ p = .pass .g7Flip v)) ∧
        d' = if d = .buffer0 then .buffer1 else .buffer0) := by
  cases h with
  | enable => exact .inl ⟨rfl, rfl⟩
  | disable => exact .inr (.inl ⟨rfl, rfl⟩)
  | free => exact .inr (.inr ⟨.inl rfl, other_eq d⟩)
  | pass q v hq => exact .inr (.inr ⟨.inr ⟨v, by simpa using hq⟩, other_eq d⟩)

/-- Settles O6: no callback runs where `ctx.dbl` is written (the invariant), so its writer is the task on top. -/
theorem doubleBufferWriters : Obligations.DoubleBufferWriters := by
  intro s t h hstep hp hd
  refine (stepEffect_dbl h (step_effect hstep hp) hd).imp_right (Or.imp_right ?_)
  rintro ⟨⟨o, p, ph⟩, below, hst, hw⟩
  exact ⟨o, p, ph, below, hst, hw.cases_point⟩

/-! ## The event record -/

/-- What follows an action writes the record only in a pass. -/
theorem resumeAt_evt {p : Point} (r : ActResult) (s : State) (h : (resumeAt p r s).1.evt ≠ s.evt) :
    ∃ q v, p = .pass q v := by
  cases p with
  | pass q v => exact ⟨q, v, rfl⟩
  | dbl p => cases p <;> exact absurd rfl h
  | _ => exact absurd rfl h

theorem settle_writes_evt {x : Task} (r : ActResult) (s : State) (h : (settle x r s).evt ≠ s.evt) :
    ∃ q v, x.pt = .pass q v :=
  resumeAt_evt r s (settle_evt x r s ▸ h)

theorem actionEffect_writes_evt {x : Task} {s t : State} (eff : ActionEffect x s t) (h : t.evt ≠ s.evt) :
    ∃ q v, x.pt = .pass q v := by
  cases eff with
  | settled r e m es => exact settle_writes_evt r _ h
  | waiting => exact absurd rfl h
  | called => exact absurd rfl h

theorem runTask_writes_evt {x : Task} {s : State} (h : (runTask x s).evt ≠ s.evt) : ∃ q v, x.pt = .pass q v :=
  actionEffect_writes_evt (runTask_effect x s) h

theorem exec_writes_evt {i : Instr} {s t : State} (he : exec i s = .next t) (h : t.evt ≠ s.evt) :
    i = .init ∨ i = .deinit ∨ (i = .isrPass ∧ inCallback s.stack = false) := by
  cases (exec_effect i s t he).2 with
  | answered => exact absurd rfl h
  | initialized hi => exact .inl hi
  | deinitialized hi => exact .inr (.inl hi)
  | set => exact absurd rfl h
  | halts => exact absurd rfl h
  | started p hp =>
    obtain ⟨q, v, hpass⟩ := runTask_writes_evt h
    simp only at hpass
    exact absurd (hpass ▸ hp) nofun
  | pass hi _ _ _ hc => exact .inr (.inr ⟨hi, hc⟩)

theorem stepEffect_evt {s t : State} (eff : StepEffect s t) (h : t.evt ≠ s.evt) :
    fetches s .init ∨ fetches s .deinit ∨ (fetches s .isrPass ∧ inCallback s.stack = false) ∨
    ((boundary s).start = true ∧ passMayStart (tick s) = true) ∨
    (∃ x q v below, s.stack = .task x :: below ∧ x.pt = .pass q v) ∨
    ∃ f x q v below rest, s.stack = .handler f :: .task x :: below ∧ x.pt = .pass q v ∧ s.inputs = .ret :: rest := by
  rw [← tick_evt s] at h
  cases eff with
  | passStarts hb hm => exact .inr (.inr (.inr (.inl ⟨hb, hm⟩)))
  | taskRuns x below hst =>
    obtain ⟨q, v, hx⟩ := runTask_writes_evt h
    exact .inr (.inr (.inr (.inr (.inl ⟨x, q, v, below, hst, hx⟩))))
  | waits => exact absurd rfl h
  | executes i rest _ hf he =>
    rcases exec_writes_evt he h with rfl | rfl | ⟨rfl, hc⟩
    · exact .inl hf
    · exact .inr (.inl hf)
    · exact .inr (.inr (.inl ⟨hf, by simpa using hc⟩))
  | handlerReturns f x below rest hst hin =>
    obtain ⟨q, v, hx⟩ := settle_writes_evt _ _ h
    exact .inr (.inr (.inr (.inr (.inr ⟨f, x, q, v, below, rest, hst, hx, hin⟩))))

/-- Settles O48: outside a pass no action writes the record, and of the instructions only `init`, `deinit` and `isr_pass`
do. -/
theorem recordWriters : Obligations.RecordWriters := by
  intro s t hstep hp h
  refine (stepEffect_evt (step_effect hstep hp) h).imp_right (Or.imp_right (Or.imp_right (Or.imp_right
    (Or.imp ?_ ?_))))
  · rintro ⟨⟨o, p, ph⟩, q, v, below, hst, rfl⟩
    exact ⟨o, q, v, ph, below, hst⟩
  · rintro ⟨f, ⟨o, p, ph⟩, q, v, below, rest, hst, rfl, hin⟩
    exact ⟨f, o, q, v, ph, below, rest, hst, hin⟩

/-! ## Reset, `init`, and the block before `init` -/

theorem has_of_noCallbacks {x : Ctx} (h : x.cb = 0) (f : CallbackId) : x.has f = false := by
  simp [Ctx.has, h]

/-- Settles O1: both states are written out, and `init` asks nothing but that the block is not halted. -/
theorem powerOnAndInitState : Obligations.PowerOnAndInitState := by
  refine ⟨⟨rfl, rfl, rfl⟩, fun s hh => ?_⟩
  have hexec : exec .init s = reply (.ok .unit) { s with
      ctx := { Ctx.powerOn with live := true }, evt := EventRec.zero, seq := Sequencer.powerOn } := by
    simp [exec, execInit, hh]
  exact ⟨_, hexec, rfl, rfl, rfl, has_of_noCallbacks rfl⟩

theorem setCtx_dead (f : Ctx → Ctx) (s : State) (hl : s.ctx.live = false) (hh : s.seq.halted = false) :
    setCtx f s = .next (answer (.err .invalidArgument) s) :=
  request_dead s (fun s => reply (.ok .unit) { s with ctx := f s.ctx }) hl hh

theorem codec_dead (b : Bool) (p : Point) (s : State) (hl : s.ctx.live = false) (hh : s.seq.halted = false) :
    codec b p s = .next (answer (.err .invalidArgument) s) :=
  request_dead s (fun s => if b then start p s else protocolError s) hl hh

/-- Settles O7: every instruction but `init`, the reserved op codes and the four invalid rows is a `request`, which fails
its test of `ctx.live`; a reserved op code answers the same by its own rule (30_encoding.md R115). -/
theorem operationsNeedLive : Obligations.OperationsNeedLive := by
  intro s i hl hh hinit hvalid
  cases i <;> simp only [AnswersOnly, exec]
  case init => exact absurd rfl hinit
  case busInvalidFastRead | busInvalidReadM1 | busInvalidReadM2 | busInvalidReadM3 => exact absurd hvalid nofun
  case cmdReserved =>
    simp only [execCmdReserved, hh]
    rfl
  case setCrcMode m =>
    unfold execSetCrcMode
    split
    · exact setCtx_dead _ s hl hh
    · exact request_dead s _ hl hh
  case setChannel | setSts | setFceDis | setZeroLenOk | setLongFrames | setCallback => exact setCtx_dead _ s hl hh
  case busRdShort | busWrShort | busRdExt | busWrExt | busMod8 | busMod16 | busMod32 | busFast =>
    exact codec_dead _ _ s hl hh
  all_goals exact request_dead s _ hl hh

end Sys2Proof.Proofs
end

section
/-! SUPPORT. The chip on a read, a fast command and a boundary (20_memory.md R75, R81, R82), and the address bits a header
drops (R63). -/

namespace Sys2Proof.Proofs

open Sys2Proof.Machine Sys2Proof.Laws

/-! ## Address bits -/

/-- Settles O15: a header is built from the two bit fields of the address alone. -/
theorem addressBitsDropped : Obligations.AddressBitsDropped := by
  intro k a b o p h
  have hfile : fileOf (combined a o) = fileOf (combined b p) :=
    BitVec.eq_of_getLsbD_eq fun i hi => by
      simp only [fileOf, combined, BitVec.getLsbD_extractLsb', h (16 + i) (.inl (by omega))]
  have hsub : subOf (combined a o) = subOf (combined b p) :=
    BitVec.eq_of_getLsbD_eq fun i hi => by
      simp only [subOf, combined, BitVec.getLsbD_extractLsb', h (0 + i) (.inr (by omega))]
  simp only [accessHdr, hfile, hsub]

/-! ## What the chip does by itself -/

/-- Settles O56: the slot that names every value, one poke among them. -/
theorem chipMovesByItself : Obligations.ChipMovesByItself := by
  intro s rest trx hwbuf crcOn echo sem k v hk
  refine ⟨{ pokes := [(k, v)], trx, hwbuf, crcOn, echo, sem }, rfl, rfl, ?_⟩
  simp [tick, chipEvents, chipMoves, pokeAll, Nat.mod_eq_of_lt hk]

/-! ## A read -/

theorem isEchoAccess_iff (c : Cfg) (file : File) (sub : Sub) :
    isEchoAccess c file sub = true ↔ file = fileOf c.REG.CRC_ECHO ∧ sub = subOf c.REG.CRC_ECHO := by
  simp [isEchoAccess]

@[simp] theorem chipReadBytes_length (c : Cfg) (x : Chip) (file : File) (sub : Sub) (n : Nat) :
    (chipReadBytes c x file sub n).length = n := by
  simp [chipReadBytes]

/-- A read of the echo register begins with the echo. -/
theorem chipReadBytes_head?_echo (c : Cfg) (x : Chip) (file : File) (sub : Sub) (n : Nat) (hn : 1 ≤ n)
    (he : isEchoAccess c file sub = true) : (chipReadBytes c x file sub n).head? = some x.echo := by
  obtain ⟨m, rfl⟩ := Nat.exists_eq_add_of_le' hn
  simp [chipReadBytes, List.range_succ_eq_map, he]

/-- A read is its header alone, and the chip takes it whatever its CRC configuration (30_encoding.md R90). -/
theorem decodeFrame_read {c : Cfg} {hdr : List Byte} {ext : Bool} {file : File} {sub : Sub} (crcOn : Bool)
    (ha : Announces c hdr .read ext file sub) :
    decodeFrame c crcOn hdr = .frame { kind := .read, ext, file, sub, payload := [], crcOk := true } := by
  have h := ha crcOn []
  rw [List.append_nil] at h
  rw [h]
  simp [decodeBody, Kind.isModify]

theorem chipTake_read (c : Cfg) (t : Nat) (file : File) (sub : Sub) (n : Nat) (x : Chip) :
    chipTake c t (headerOf .read file sub) n x =
      let d := chipReadBytes c x file sub n
      (if isEchoAccess c file sub then x else { x with echo := crc8 c (headerOf .read file sub ++ d) }, d) := by
  obtain ⟨ext, ha⟩ := announces_headerOf c .read file sub nofun
  simp only [chipTake, decodeFrame_read x.crcOn ha, chipFrame, chipRead, if_true]

/-- Settles O57: what the chip does on a read, with the echo register's own case apart. -/
theorem readLeavesItsCrcInEcho : Obligations.ReadLeavesItsCrcInEcho := by
  intro c t file sub n x hn
  simp only [chipTake_read, ← isEchoAccess_iff]
  cases he : isEchoAccess c file sub
  · simp
  · simp [chipReadBytes_head?_echo c x file sub n hn he]

/-! ## A fast command -/

/-- The frame the codec builds is read back whole by a chip of the same CRC setting (30_encoding.md R106). -/
theorem decodeFrame_frameBytes {c : Cfg} {hdr payload : List Byte} {kind : Kind} {ext : Bool} {file : File} {sub : Sub}
    (crcOn : Bool) (ha : Announces c hdr kind ext file sub) (hr : kind ≠ .read) (hf : kind = .fast → payload = [])
    (hm : kind.isModify = true → payload.length = kind.modLen) :
    decodeFrame c crcOn (frameBytes c hdr payload crcOn) =
      .frame { kind, ext, file, sub, payload, crcOk := true } := by
  unfold frameBytes
  rw [List.append_assoc, ha]
  cases crcOn
  · simpa using decodeBody_plain c (hdr ++ payload) kind ext file sub payload hf hm
  · exact decodeBody_trailer c hdr payload kind ext file sub hr hf hm

theorem chipTake_fast (c : Cfg) (t : Nat) (code : File) (n : Nat) (x : Chip) :
    chipTake c t (frameBytes c (hdrFast code) [] x.crcOn) n x = (chipFast c.FC t code x, []) := by
  have hd := decodeFrame_frameBytes (payload := []) x.crcOn (announces_fast c code) nofun (fun _ => rfl) nofun
  simp only [chipTake, hd, chipFrame, if_true]

/-- The TX/RX state each catalogued code leads to, in the order of 42_fastcmd.md R202's table; none where it stays. -/
def trxEffects : List (Option TrxState) :=
  let tx := some .transmitting
  let rx := some .receiving
  [some .idle, tx, rx, tx, rx, tx, rx, tx, rx, tx, rx, tx, tx, tx, tx, tx, tx, tx] ++ List.replicate 7 none

/-- The code has this effect on the TX/RX state. -/
def HasTrxEffect (c : FastCodes) (code : File) (e : Option TrxState) : Prop :=
  (code, e) ∈ c.codes.zip trxEffects

/-- Catalogued codes are distinct (00_scope.md R11), so an effect is the only one of its code. -/
theorem HasTrxEffect.unique {c : Cfg} (hc : c.wf = true) {code : File} {e e' : Option TrxState}
    (h : HasTrxEffect c.FC code e) (h' : HasTrxEffect c.FC code e') : e = e' := by
  simp only [Cfg.wf, Bool.and_eq_true] at hc
  obtain ⟨⟨⟨⟨⟨-, hd⟩, -⟩, -⟩, -⟩, -⟩ := hc
  have hfind := find_zip c.FC.codes trxEffects [] code e hd h
  rw [find_zip c.FC.codes trxEffects [] code e' hd h'] at hfind
  simpa using hfind.symm

theorem hasTrxEffect_off (c : FastCodes) : HasTrxEffect c c.TXRXOFF (some .idle) := by
  simp [HasTrxEffect, FastCodes.codes, trxEffects]

theorem hasTrxEffect_tx {c : FastCodes} {code : File} (h : code ∈ txCodes c) :
    HasTrxEffect c code (some .transmitting) := by
  simp only [txCodes, List.cons_append, List.nil_append, List.mem_cons, List.not_mem_nil, or_false] at h
  simp [HasTrxEffect, FastCodes.codes, trxEffects, h]

theorem hasTrxEffect_rx {c : FastCodes} {code : File} (h : code ∈ rxCodes c) :
    HasTrxEffect c code (some .receiving) := by
  simp only [rxCodes, List.mem_cons, List.not_mem_nil, or_false] at h
  simp [HasTrxEffect, FastCodes.codes, trxEffects, h]

theorem hasTrxEffect_none {c : FastCodes} {code : File} (h : code ∈ [c.DB_TOGGLE, c.SEMA_REQ, c.SEMA_REL, c.SEMA_FORCE,
    c.SOFT_RESET_SEM, c.SOFT_RESET_NO_SEM, c.ENTER_SLEEP]) : HasTrxEffect c code none := by
  simp only [List.mem_cons, List.not_mem_nil, or_false] at h
  simp [HasTrxEffect, FastCodes.codes, trxEffects, h]

/-- A code that has an effect stands in the list of that effect. -/
theorem HasTrxEffect.listed {c : FastCodes} {code : File} {e : TrxState} (h : HasTrxEffect c code (some e)) :
    code = c.TXRXOFF ∨ code ∈ txCodes c ∨ code ∈ rxCodes c := by
  simp only [HasTrxEffect, FastCodes.codes, trxEffects, List.cons_append, List.nil_append, List.reduceReplicate,
    List.zip_cons_cons, List.zip_nil_right, List.mem_cons, Prod.mk.injEq, Option.some.injEq, reduceCtorEq, and_false,
    List.not_mem_nil, or_self, or_false] at h
  simp only [txCodes, rxCodes, List.cons_append, List.nil_append, List.mem_cons, List.not_mem_nil, or_false]
  tauto

/-- 20_memory.md R82: a catalogued code leaves the TX/RX state of its effect. -/
theorem trxAfter_of_effect {c : Cfg} (hc : c.wf = true) {code : File} {e : Option TrxState}
    (h : HasTrxEffect c.FC code e) (t : TrxState) : trxAfter c.FC code t = e.getD t := by
  by_cases hoff : code = c.FC.TXRXOFF
  · rw [h.unique hc (hoff ▸ hasTrxEffect_off c.FC)]
    simp [trxAfter, hoff]
  by_cases htx : code ∈ txCodes c.FC
  · rw [h.unique hc (hasTrxEffect_tx htx)]
    simp [trxAfter, hoff, htx]
  by_cases hrx : code ∈ rxCodes c.FC
  · rw [h.unique hc (hasTrxEffect_rx hrx)]
    simp [trxAfter, hoff, htx, hrx]
  cases e with
  | none => simp [trxAfter, hoff, htx, hrx]
  | some e => exact absurd h.listed (by simp [hoff, htx, hrx])

/-- 20_memory.md R82: the pointer moves at `FC.DB_TOGGLE`, and there always. -/
theorem hwbufAfter_eq_iff (c : FastCodes) (code : File) (h : HwBuf) :
    hwbufAfter c code h = h ↔ code ≠ c.DB_TOGGLE := by
  cases h <;> simp [hwbufAfter]

/-- Settles O58: the chip takes the frame as a fast command, and every list of codes has its effect. -/
theorem fastCommandOnChip : Obligations.FastCommandOnChip := by
  intro c t code x hc
  have htake := chipTake_fast c t code 0 x
  unfold hdrFast at htake
  simp only [htake]
  have htrx : ∀ e, HasTrxEffect c.FC code e → (chipFast c.FC t code x).trx = e.getD x.trx :=
    fun e h => trxAfter_of_effect hc h x.trx
  exact ⟨rfl, rfl, rfl, fun h => htrx (some .idle) (h ▸ hasTrxEffect_off c.FC),
    fun h => htrx (some .transmitting) (hasTrxEffect_tx h), fun h => htrx (some .receiving) (hasTrxEffect_rx h),
    fun h => htrx none (hasTrxEffect_none h), hwbufAfter_eq_iff c.FC code x.hwbuf⟩

end Sys2Proof.Proofs
end

section
/-! SUPPORT. What the first action of an instruction leaves in the chip's byte store: a write its bytes, a read or a fast
command nothing (20_memory.md R80 to R82). -/

namespace Sys2Proof.Proofs

open Sys2Proof.Machine Sys2Proof.Laws

/-! ## One action and the environment -/

@[simp] theorem settle_env (x : Task) (r : ActResult) (s : State) : (settle x r s).env = s.env := by
  obtain ⟨-, -, -, -, -, -, henv, -, -⟩ := settle_frame x r s
  exact henv

@[simp] theorem readAction_env (x : Task) (hdr : List Byte) (checked : Bool) (n : Nat) (s : State) :
    (readAction x hdr checked n s).env = (busRead hdr n s).2.env := by
  unfold readAction
  dsimp only
  split
  · simp
  · split <;> simp

/-- A plain write is one transaction. -/
theorem start_write_env {hdr body : List Byte} {s t : State} (h : start (.write hdr body) s = .next t) :
    t.env = (busWrite hdr body s).2.env := by
  cases h
  simp [runTask, actionOf, perform]

/-! ## The bytes a store leaves -/

/-- Every byte of a store of at most a whole file is read back, also where the offsets wrap (20_memory.md R82). -/
theorem readByte_storeBytes_wrapping (file : File) (d : List Byte) (m : Memory) (off i : Nat) (hm : memWf m = true)
    (hi : i < d.length) (hd : d.length ≤ 0x10000) :
    readByte (storeBytes m file off d) (cellKey file (off + i)) = d.getD i 0 := by
  induction d generalizing m off i with
  | nil => exact absurd hi (Nat.not_lt_zero i)
  | cons b rest ih =>
    simp only [List.length_cons] at hi hd
    rw [storeBytes]
    cases i with
    | zero =>
      have hdistinct : ∀ j < rest.length, cellKey file (off + 0) ≠ cellKey file (off + 1 + j) := by
        intro j hj
        simp only [cellKey]
        omega
      rw [readByte_storeBytes_other file rest _ (off + 1) _ hdistinct]
      exact readByte_writeByte_same m 0 _ b hm
    | succ j =>
      rw [show off + (j + 1) = off + 1 + j by omega]
      exact ih _ (off + 1) j (writeByte_memWf m _ b hm (cellKey_lt file off)) (by omega) (by omega)

/-! ## Writes -/

/-- 20_memory.md R80, R82: the bytes after an instruction whose one action is a write. -/
theorem startedWrite_bytes {s t : State} {i : Instr} {hdr bytes : List Byte} {ext : Bool} {file : File} {sub : Sub}
    (hg : CrcAgree s) (hm : memWf s.env.chip.mem = true) (ha : Announces s.cfg hdr .write ext file sub)
    (hl : bytes.length ≤ 0x10000) (hi : exec i s = start (.write hdr bytes) s) (he : exec i s = .next t) :
    (∀ a, a ∉ cellKeys file sub bytes.length → readByte t.env.chip.mem a = readByte s.env.chip.mem a) ∧
    ∀ n, n < bytes.length → readByte t.env.chip.mem (cellKey file (sub.toNat + n)) =
      if reachesChip 0 s.env then writtenByte s.cfg s.env.chip.mem (cellKey file (sub.toNat + n)) (bytes.getD n 0)
      else readByte s.env.chip.mem (cellKey file (sub.toNat + n)) := by
  rw [start_write_env (hi ▸ he), busWrite_mem_write hdr bytes s hg ext file sub ha]
  cases reachesChip 0 s.env
  · simp
  · refine ⟨fun a hout => ?_, fun n hn => ?_⟩
    · exact readByte_storeBytes_other file _ _ _ a (by simpa using not_mem_cellKeys hout)
    · rw [← writtenBytes_getD s.cfg s.env.chip.mem file sub.toNat n bytes hn]
      exact readByte_storeBytes_wrapping file _ _ _ n hm (by simpa using hn) (by simpa using hl)

theorem writeAccessor_ready {s : State} (hs : Ready s) (k : Kind) (addr : Word) (offset : Half) (bytes : List Byte) :
    writeAccessor k addr offset bytes s = start (.write (accessHdr k addr offset) bytes) s :=
  request_ready s _ hs.1 hs.2

theorem lenWf_lt {c : Cfg} {n : Nat} (h : lenWf c n = true) : n < 0x10000 := by
  simp only [lenWf, Bool.and_eq_true, decide_eq_true_eq] at h
  exact h.2

theorem codec_ready {s : State} (hs : Ready s) {b : Bool} (hb : b = true) (p : Point) :
    codec b p s = start p s := by
  simp [codec, request_ready s _ hs.1 hs.2, hb]

/-- An admitted write request (40_codec.md R141, R144). -/
theorem transact_write_ready {s : State} (hs : Ready s) (addr : Word) (offset : Half) {bytes : List Byte}
    (hl : lenWf s.cfg bytes.length = true) :
    exec (.transact addr offset (BitVec.ofNat 16 bytes.length) 0x8000 false bytes) s =
      start (.write (accessHdr .write addr offset) bytes) s := by
  have hlen : (BitVec.ofNat 16 bytes.length).toNat = bytes.length := by
    rw [BitVec.toNat_ofNat]
    exact Nat.mod_eq_of_lt (lenWf_lt hl)
  simp [exec, execTransact, request_ready s _ hs.1 hs.2, kindOf, admitted, transactPoint, hlen, hl]

/-- Settles O51: each of these forms is one write whose header announces the place, so its bytes are what a write leaves. -/
theorem writesStoreTheirBytes : Obligations.WritesStoreTheirBytes := by
  intro s t i file sub bytes _ hs hg hm hi he
  have hstart : ∃ hdr ext, Announces s.cfg hdr .write ext file sub ∧ bytes.length ≤ 0x10000 ∧
      exec i s = start (.write hdr bytes) s := by
    rcases hi with ⟨addr, offset, rfl, rfl, hi⟩ | ⟨hi, hl⟩
    · obtain ⟨ext, ha⟩ := announces_headerOf s.cfg .write (fileOf (combined addr offset))
        (subOf (combined addr offset)) nofun
      refine ⟨accessHdr .write addr offset, ext, ha, ?_⟩
      rcases hi with ⟨v, rfl, rfl⟩ | ⟨v, rfl, rfl⟩ | ⟨v, rfl, rfl⟩ | ⟨rfl, hl⟩
      · exact ⟨by simp, writeAccessor_ready hs ..⟩
      · exact ⟨by simp [le16], writeAccessor_ready hs ..⟩
      · exact ⟨by simp [le32], writeAccessor_ready hs ..⟩
      · exact ⟨(lenWf_lt hl).le, transact_write_ready hs addr offset hl⟩
    · rcases hi with ⟨rfl, rfl⟩ | rfl
      · exact ⟨_, _, announces_short s.cfg true file, (lenWf_lt hl).le, codec_ready hs hl _⟩
      · exact ⟨_, _, announces_ext s.cfg true file sub 0 (.inl rfl), (lenWf_lt hl).le, codec_ready hs hl _⟩
  obtain ⟨hdr, ext, ha, hl, hexec⟩ := hstart
  exact startedWrite_bytes hg hm ha hl hexec he

/-! ## Actions that store nothing -/

theorem accessKeys_zero (a : Word) (n : Nat) : accessKeys a 0 n = cellKeys (fileOf a) (subOf a) n := by
  simp [accessKeys, combined]

/-- The report of an SPI-CRC error stores to the low status word only. -/
theorem flagSpiCrc_other {c : Cfg} {k : Nat} (x : Chip) (hk : k ∉ accessKeys c.REG.STATUS_LO 0 4) :
    readByte (flagSpiCrc c x).mem k = readByte x.mem k := by
  rw [accessKeys_zero] at hk
  exact readByte_storeBytes_other _ _ _ _ k (not_mem_cellKeys hk)

theorem decodeBody_kind {c : Cfg} {crcOn : Bool} {frame rest : List Byte} {kind : Kind} {ext : Bool} {file : File}
    {sub : Sub} {f : Frame} (h : decodeBody c crcOn frame kind ext file sub rest = .frame f) : f.kind = kind := by
  unfold decodeBody at h
  dsimp only at h
  split_ifs at h <;> cases h <;> rfl

/-- A frame with a fast command's header, whatever follows it, stores at most the report of its trailer. -/
theorem chipTake_fast_other {c : Cfg} {k : Nat} (t : Nat) (code : File) (rest : List Byte) (n : Nat) (x : Chip)
    (hk : k ∉ accessKeys c.REG.STATUS_LO 0 4) :
    readByte (chipTake c t (hdrFast code ++ rest) n x).1.mem k = readByte x.mem k := by
  unfold chipTake
  split
  · dsimp only
    split
    · exact flagSpiCrc_other x hk
    · rfl
  · next f hf =>
    rw [decodeFrame_fast] at hf
    have hmem : (chipFrame c t (hdrFast code ++ rest) f n x).1.mem = x.mem := by
      simp [chipFrame, decodeBody_kind hf, chipFast]
    dsimp only
    split
    · rw [hmem]
    · rw [flagSpiCrc_other _ hk, hmem]

/-- The ends agree on the trailer, or the address lies outside the low status word. -/
def Sheltered (s : State) (k : Nat) : Prop :=
  CrcAgree s ∨ k ∉ accessKeys s.cfg.REG.STATUS_LO 0 4

/-- A fast command stores nothing, but for the report of its trailer. -/
theorem busWrite_fast_keeps {s : State} {k : Nat} (hk : Sheltered s k) (code : File) :
    readByte (busWrite (hdrFast code) [] s).2.env.chip.mem k = readByte s.env.chip.mem k := by
  rcases hk with hg | hout
  · rw [busWrite_mem_fast code s hg]
  · simp only [busWrite_eq, transfer_chip, List.append_nil]
    split
    · rfl
    all_goals exact chipTake_fast_other _ code _ 0 s.env.chip hout

/-- The actions that store nothing: reads, fast commands, and closing the platform's mask. -/
inductive NonStoring (c : Cfg) : Action → Prop where
  | read {hdr : List Byte} {ext : Bool} {file : File} {sub : Sub} (checked : Bool) (n : Nat)
      (ha : Announces c hdr .read ext file sub) : NonStoring c (.read hdr checked n)
  | fast (code : File) : NonStoring c (fastAct code)
  | maskOff : NonStoring c .maskOff

theorem nonStoring_access (c : Cfg) (addr : Word) (offset : Half) (checked : Bool) (n : Nat) :
    NonStoring c (.read (accessHdr .read addr offset) checked n) := by
  obtain ⟨ext, ha⟩ := announces_headerOf c .read (fileOf (combined addr offset)) (subOf (combined addr offset)) nofun
  exact .read checked n ha

theorem perform_keeps {s : State} {k : Nat} {a : Action} (h : NonStoring s.cfg a) (hk : Sheltered s k) (x : Task) :
    readByte (perform x a s).env.chip.mem k = readByte s.env.chip.mem k := by
  cases h with
  | read checked n ha => simp only [perform, readAction_env, busRead_mem _ n s _ _ _ ha]
  | fast code => simpa [fastAct, perform] using busWrite_fast_keeps hk code
  | maskOff => simp [perform]

/-! ## Instructions that store nothing in their first action -/

/-- Whatever state the outcome leads to, the byte at `k` is as it was. -/
def KeepsByte (s : State) (k : Nat) (o : Host.Outcome State Fault Refusal) : Prop :=
  ∀ t, o = .next t → readByte t.env.chip.mem k = readByte s.env.chip.mem k

theorem keeps_next {s t : State} {k : Nat} (h : t.env = s.env) : KeepsByte s k (.next t) := by
  rintro _ ⟨⟩
  rw [h]

theorem keeps_fault (s : State) (k : Nat) (f : Fault) : KeepsByte s k (.fault f) :=
  fun _ h => nomatch h

theorem keeps_refused (s : State) (k : Nat) (r : Refusal) : KeepsByte s k (.refused r) :=
  fun _ h => nomatch h

theorem keeps_request {s : State} {k : Nat} {f : State → Host.Outcome State Fault Refusal} (h : KeepsByte s k (f s)) :
    KeepsByte s k (request s f) := by
  unfold request
  split
  · exact keeps_fault s k _
  split
  · exact h
  · exact keeps_next rfl

theorem keeps_setCtx (f : Ctx → Ctx) (s : State) (k : Nat) : KeepsByte s k (setCtx f s) :=
  keeps_request (keeps_next rfl)

theorem keeps_protocolError (s : State) (k : Nat) : KeepsByte s k (protocolError s) := by
  unfold protocolError
  split <;> exact keeps_next rfl

theorem keeps_start {s : State} {k : Nat} {p : Point} (hk : Sheltered s k) (h : NonStoring s.cfg (actionOf p s)) :
    KeepsByte s k (start p s) := by
  rintro _ ⟨⟩
  exact perform_keeps h hk _

theorem keeps_codec {s : State} {k : Nat} {p : Point} (b : Bool) (hk : Sheltered s k)
    (h : NonStoring s.cfg (actionOf p s)) : KeepsByte s k (codec b p s) := by
  refine keeps_request ?_
  split
  · exact keeps_start hk h
  · exact keeps_protocolError s k

theorem keeps_fastCmd {s : State} {k : Nat} (hk : Sheltered s k) (code : File) : KeepsByte s k (fastCmd code s) :=
  keeps_request (keeps_start hk (.fast code))

theorem keeps_readAccessor {s : State} {k : Nat} (hk : Sheltered s k) (addr : Word) (offset : Half) (n : Nat)
    (ret : RetKind) : KeepsByte s k (readAccessor addr offset n ret s) :=
  keeps_request (keeps_start hk (nonStoring_access s.cfg addr offset _ n))

/-- `transact` of a read or with the fast flag (30_encoding.md R110). -/
theorem kindOf_nonStoring {mode : Half} {fast : Bool} {kind : Kind} (h : fast = true ∨ mode = 0x0000#16)
    (hkind : kindOf mode fast = some kind) : kind = .read ∨ kind = .fast := by
  cases fast with
  | true =>
    simp only [kindOf, if_true, Option.ite_none_right_eq_some, Option.some.injEq] at hkind
    exact .inr hkind.2.symm
  | false =>
    obtain rfl := h.resolve_left nofun
    exact .inl (Option.some.inj hkind).symm

theorem keeps_transact {s : State} {k : Nat} (hk : Sheltered s k) (addr : Word) (offset len mode : Half) (fast : Bool)
    (buf : List Byte) (h : fast = true ∨ mode = 0x0000#16) :
    KeepsByte s k (execTransact addr offset len mode fast buf s) := by
  refine keeps_request ?_
  split
  · exact keeps_protocolError s k
  · next kind hkind =>
    split
    · rcases kindOf_nonStoring h hkind with rfl | rfl
      · exact keeps_start hk (nonStoring_access s.cfg addr offset _ _)
      · exact keeps_start hk (.fast _)
    · exact keeps_protocolError s k

/-- `start_tx` begins with the read of its antenna delay or with its start command (43_trx_sequencer.md R243, R244). -/
theorem keeps_startTx {s : State} {k : Nat} (hk : Sheltered s k) (mode : Byte) :
    KeepsByte s k (execStartTx mode s) := by
  refine keeps_request ?_
  split
  · exact keeps_next rfl
  · next st hst =>
    have htx : st.tx = true := by
      simp only [txStart] at hst
      split at hst
      · cases hst
      split at hst <;> cases hst
      rfl
    refine keeps_start hk ?_
    simp only [trxFirst, htx, if_true, trxCorrect]
    split
    · exact nonStoring_access s.cfg _ _ _ _
    · exact .fast _

/-- A pass begins with the read of the fast status (45_event_classifier.md R300). -/
theorem keeps_isrPass {s : State} {k : Nat} (hk : Sheltered s k) : KeepsByte s k (execIsrPass s) := by
  refine keeps_request ?_
  split
  · exact keeps_next rfl
  · rintro _ ⟨⟩
    exact perform_keeps (s := enterPass s) (nonStoring_access s.cfg s.cfg.REG.FSTAT 0 _ _) hk _

/-- Settles O53: such an instruction sends nothing, or its first action is one that stores nothing. -/
theorem nonStoringFormsLeaveMemory : Obligations.NonStoringFormsLeaveMemory := by
  intro s t i hi he k hk
  refine (?_ : KeepsByte s k (exec i s)) t he
  cases i <;> simp only [exec]
  case busWrShort | busWrExt | busMod8 | busMod16 | busMod32 | write8 | write16 | write32 | modify8 | modify16 | modify32
    | startRx | dblEnable | dblDisable => exact hi.elim
  case busInvalidFastRead | busInvalidReadM1 | busInvalidReadM2 | busInvalidReadM3 => exact keeps_refused s k _
  case busRdShort file len => exact keeps_codec _ hk (.read _ _ (announces_short s.cfg false file))
  case busRdExt file sub len => exact keeps_codec _ hk (.read _ _ (announces_ext s.cfg false file sub 0 (.inr rfl)))
  case busFast code => exact keeps_codec _ hk (.fast code)
  case init | cmdReserved =>
    simp only [execInit, execCmdReserved]
    split
    · exact keeps_fault s k _
    · exact keeps_next rfl
  case deinit => exact keeps_request (keeps_next rfl)
  case setCrcMode m =>
    unfold execSetCrcMode
    split
    · exact keeps_setCtx _ s k
    · exact keeps_request (keeps_next rfl)
  case setChannel | setSts | setFceDis | setZeroLenOk | setLongFrames | setCallback => exact keeps_setCtx _ s k
  case irqSrcModify => exact keeps_request (keeps_start hk .maskOff)
  case transact => exact keeps_transact hk _ _ _ _ _ _ hi
  case read8 | read16 | read32 => exact keeps_readAccessor hk _ _ _ _
  case fastcmd addr =>
    refine keeps_request ?_
    split
    · exact keeps_start hk (.fast _)
    · exact keeps_protocolError s k
  case startTx mode => exact keeps_startTx hk mode
  case forceTrxOff => exact keeps_request (keeps_start hk (nonStoring_access s.cfg _ _ _ _))
  case signalBufferFree =>
    refine keeps_request ?_
    split
    · exact keeps_start hk (.fast _)
    · exact keeps_next rfl
  case isrPass => exact keeps_isrPass hk
  all_goals exact keeps_fastCmd hk _

end Sys2Proof.Proofs
end

section
/-! SUPPORT. The encodings: every row of the table, the reserved op codes, the headers, and frames read back
(30_encoding.md R92 to R96, R103 to R106, R112, R115). -/

namespace Sys2Proof.Proofs

open Sys2Proof.Machine Sys2Proof.Laws

/-! ## Every row of the table -/

/-- The family `RoundTrip`, assembled over the constructors. -/
theorem roundTrip (i : Instr) : RoundTrip.Statement i :=
  match i with
  | .busRdShort file len => RoundTrip.busRdShort file len
  | .busWrShort file body => RoundTrip.busWrShort file body
  | .busRdExt file sub len => RoundTrip.busRdExt file sub len
  | .busWrExt file sub body => RoundTrip.busWrExt file sub body
  | .busMod8 file sub and or => RoundTrip.busMod8 file sub and or
  | .busMod16 file sub and or => RoundTrip.busMod16 file sub and or
  | .busMod32 file sub and or => RoundTrip.busMod32 file sub and or
  | .busFast code => RoundTrip.busFast code
  | .busInvalidFastRead code => RoundTrip.busInvalidFastRead code
  | .busInvalidReadM1 file sub => RoundTrip.busInvalidReadM1 file sub
  | .busInvalidReadM2 file sub => RoundTrip.busInvalidReadM2 file sub
  | .busInvalidReadM3 file sub => RoundTrip.busInvalidReadM3 file sub
  | .fcTxrxoff => RoundTrip.fcTxrxoff
  | .fcTx => RoundTrip.fcTx
  | .fcRx => RoundTrip.fcRx
  | .fcDtx => RoundTrip.fcDtx
  | .fcDrx => RoundTrip.fcDrx
  | .fcDtxTs => RoundTrip.fcDtxTs
  | .fcDrxTs => RoundTrip.fcDrxTs
  | .fcDtxRs => RoundTrip.fcDtxRs
  | .fcDrxRs => RoundTrip.fcDrxRs
  | .fcDtxRef => RoundTrip.fcDtxRef
  | .fcDrxRef => RoundTrip.fcDrxRef
  | .fcCcaTx => RoundTrip.fcCcaTx
  | .fcTxW4r => RoundTrip.fcTxW4r
  | .fcDtxW4r => RoundTrip.fcDtxW4r
  | .fcDtxTsW4r => RoundTrip.fcDtxTsW4r
  | .fcDtxRsW4r => RoundTrip.fcDtxRsW4r
  | .fcDtxRefW4r => RoundTrip.fcDtxRefW4r
  | .fcCcaTxW4r => RoundTrip.fcCcaTxW4r
  | .fcDbToggle => RoundTrip.fcDbToggle
  | .fcSemaReq => RoundTrip.fcSemaReq
  | .fcSemaRel => RoundTrip.fcSemaRel
  | .fcSemaForce => RoundTrip.fcSemaForce
  | .fcSoftResetSem => RoundTrip.fcSoftResetSem
  | .fcSoftResetNoSem => RoundTrip.fcSoftResetNoSem
  | .fcEnterSleep => RoundTrip.fcEnterSleep
  | .fcReserved12 => RoundTrip.fcReserved12
  | .fcReserved17 => RoundTrip.fcReserved17
  | .fcReserved1B => RoundTrip.fcReserved1B
  | .fcReserved1C => RoundTrip.fcReserved1C
  | .fcReserved1D => RoundTrip.fcReserved1D
  | .fcReserved1E => RoundTrip.fcReserved1E
  | .fcReserved1F => RoundTrip.fcReserved1F
  | .init => RoundTrip.init
  | .deinit => RoundTrip.deinit
  | .setChannel ch => RoundTrip.setChannel ch
  | .setSts mode len => RoundTrip.setSts mode len
  | .setCrcMode m => RoundTrip.setCrcMode m
  | .setFceDis b => RoundTrip.setFceDis b
  | .setZeroLenOk b => RoundTrip.setZeroLenOk b
  | .setLongFrames b => RoundTrip.setLongFrames b
  | .setCallback id present => RoundTrip.setCallback id present
  | .irqSrcModify and or => RoundTrip.irqSrcModify and or
  | .transact addr offset len mode fast buf => RoundTrip.transact addr offset len mode fast buf
  | .read8 addr offset => RoundTrip.read8 addr offset
  | .read16 addr offset => RoundTrip.read16 addr offset
  | .read32 addr offset => RoundTrip.read32 addr offset
  | .write8 addr offset v => RoundTrip.write8 addr offset v
  | .write16 addr offset v => RoundTrip.write16 addr offset v
  | .write32 addr offset v => RoundTrip.write32 addr offset v
  | .modify8 addr offset and or => RoundTrip.modify8 addr offset and or
  | .modify16 addr offset and or => RoundTrip.modify16 addr offset and or
  | .modify32 addr offset and or => RoundTrip.modify32 addr offset and or
  | .fastcmd addr => RoundTrip.fastcmd addr
  | .startTx mode => RoundTrip.startTx mode
  | .startRx mode => RoundTrip.startRx mode
  | .forceTrxOff => RoundTrip.forceTrxOff
  | .dblEnable autoReenable => RoundTrip.dblEnable autoReenable
  | .dblDisable => RoundTrip.dblDisable
  | .signalBufferFree => RoundTrip.signalBufferFree
  | .isrPass => RoundTrip.isrPass
  | .cmdReserved op => RoundTrip.cmdReserved op

/-- Settles O12: row by row. -/
theorem decodeOfEncodeIsIdentity : Obligations.DecodeOfEncodeIsIdentity :=
  fun c i hc hi => roundTrip i c hc hi

/-! ## Op codes -/

/-- 30_encoding.md R112, R115: an op code outside the table is read as the reserved row, whatever the operands. -/
theorem decodeCmd_reserved (r : CmdReq) (h : r.op ∉ opCodes) : decodeCmd r = .cmdReserved r.op := by
  unfold decodeCmd
  split
  case h_29 => rfl
  all_goals
    next hop => exact absurd (hop ▸ by decide) h

/-- Settles O8: no arm of the decoder names such an op code, and its row asks nothing of the context. -/
theorem reservedOpCodesAnswerInvalidArgument : Obligations.ReservedOpCodesAnswerInvalidArgument := by
  intro s r hh hop
  refine ⟨decodeCmd_reserved r hop, ?_⟩
  simp only [AnswersOnly, exec, execCmdReserved, hh]
  rfl

/-! ## Headers -/

/-- 30_encoding.md R92, the choice of the header. -/
theorem headerOf_eq_ite (k : Kind) (file : File) (sub : Sub) :
    headerOf k file sub =
      if k = .fast then hdrFast file
      else if sub ≠ 0 ∨ k.isModify = true then hdrExt k.isWrite file sub k.modBits
      else hdrShort k.isWrite file := by
  cases k <;> simp [headerOf]

theorem hdrFast_toNat (code : File) : (hdrFast code).map (·.toNat) = [0x81 + 2 * code.toNat] := by
  revert code; decide +kernel

/-- 30_encoding.md R103: the byte of the short header is the upper one of its 16-bit word. -/
theorem hdrShort_toNat (w : Bool) (file : File) :
    (hdrShort w file).map (·.toNat) = [(w.toNat * 0x8000 + file.toNat * 0x200) / 256] := by
  revert w file; decide +kernel

/-- Byte 0 of the extended header, `b` being bit 6 of the sub-address. -/
theorem extByte0_toNat (w : Bool) (file : File) (b : BitVec 1) :
    (writeBit w ||| 0x40#8 ||| file.setWidth 8 <<< 1 ||| b.setWidth 8).toNat =
      w.toNat * 0x80 + 0x40 + file.toNat * 2 + b.toNat := by
  revert w file b; decide +kernel

/-- Byte 1 of the extended header, `b` being bits 5:0 of the sub-address. -/
theorem extByte1_toNat (b : BitVec 6) (m : BitVec 2) :
    (b.setWidth 8 <<< 2 ||| m.setWidth 8).toNat = b.toNat * 4 + m.toNat := by
  revert b m; decide +kernel

/-- 30_encoding.md R103: the bytes of the extended header are those of its 16-bit word. -/
theorem hdrExt_toNat (w : Bool) (file : File) (sub : Sub) (m : BitVec 2) :
    let word := w.toNat * 0x8000 + 0x4000 + file.toNat * 0x200 + sub.toNat * 4 + m.toNat
    (hdrExt w file sub m).map (·.toNat) = [word / 256, word % 256] := by
  have hsub := sub.isLt
  have hm := m.isLt
  simp only [hdrExt, List.map_cons, List.map_nil, extByte0_toNat, extByte1_toNat, BitVec.extractLsb'_toNat,
    Nat.shiftRight_eq_div_pow, List.cons.injEq, and_true]
  omega

/-- Settles O14: each clause is one branch of R92's choice, and that header's bytes. -/
theorem headerFormula : Obligations.HeaderFormula := by
  intro k file sub
  refine ⟨?_, ?_, fun hfast hlong => ?_⟩
  · rintro rfl
    exact hdrFast_toNat file
  · rintro (rfl | rfl) rfl
    · exact (hdrShort_toNat false file).trans (by simp)
    · exact (hdrShort_toNat true file).trans (by simp)
  · have hext : sub ≠ 0 ∨ k.isModify = true := by
      cases k <;> simp_all [Kind.isModify]
    rw [headerOf_eq_ite, if_neg hfast, if_pos hext, hdrExt_toNat]
    cases k <;> rfl

/-! ## The patterns of 30_encoding.md R104 -/

/-- R104 (a): the bits of the first byte decide. -/
theorem decodeFrame_fastReadBits {b0 : Byte} (c : Cfg) (crcOn : Bool) (rest : List Byte) (h7 : b0.getLsbD 7 = false)
    (h6 : b0.getLsbD 6 = false) (h0 : b0.getLsbD 0 = true) :
    decodeFrame c crcOn (b0 :: rest) = .invalid (.fastWithReadBit (b0.extractLsb' 1 5)) := by
  simp only [decodeFrame, h7, h6, h0]
  simp

/-- R104 (b): the bits of the two header bytes decide. -/
theorem decodeFrame_readModifyBits {b0 b1 : Byte} (c : Cfg) (crcOn : Bool) (rest : List Byte)
    (h7 : b0.getLsbD 7 = false) (h6 : b0.getLsbD 6 = true) (hm : b1.extractLsb' 0 2 ≠ 0) :
    ∃ f u m, decodeFrame c crcOn (b0 :: b1 :: rest) = .invalid (.readWithModifyWidth f u m) := by
  have hbad : (!false && b1.extractLsb' 0 2 != 0) = true := by simpa using hm
  simp only [decodeFrame, h7, h6, hbad]
  exact ⟨_, _, _, rfl⟩

/-- A fast command's header has its write bit, an extended one its bit 6, and a short one no bit 0. -/
theorem headerOf_ne_fastRead {b0 : Byte} (h7 : b0.getLsbD 7 = false) (h6 : b0.getLsbD 6 = false)
    (h0 : b0.getLsbD 0 = true) (k : Kind) (file : File) (sub : Sub) (more : List Byte) :
    headerOf k file sub ≠ b0 :: more := by
  rw [headerOf_eq_ite]
  split_ifs <;> intro h <;> obtain ⟨rfl, -⟩ := List.cons.inj h
  · simp only [fast_bits, Bool.true_eq_false] at h7
  · simp only [ext_long, Bool.true_eq_false] at h6
  · simp only [short_fast, Bool.false_eq_true] at h0

/-- Of the kinds with a two-byte header the one without the write bit is the read, and it has no modify width. -/
theorem headerOf_ne_readModify {b0 b1 : Byte} (h7 : b0.getLsbD 7 = false) (hm : b1.extractLsb' 0 2 ≠ 0) (k : Kind)
    (file : File) (sub : Sub) : headerOf k file sub ≠ [b0, b1] := by
  rw [headerOf_eq_ite]
  split_ifs <;> intro h <;> obtain ⟨rfl, htail⟩ := List.cons.inj h
  · cases htail
  · obtain ⟨rfl, -⟩ := List.cons.inj htail
    rw [ext_write] at h7
    rw [ext_mod] at hm
    cases k with
    | read => exact hm rfl
    | _ => cases h7
  · cases htail

/-- Settles O16: the decoder finds both patterns by their bits, no header has them, and the rows refuse by definition
(93_implementation_defined.md U3). -/
theorem invalidPatternsRefused : Obligations.InvalidPatternsRefused :=
  ⟨fun c crcOn _ rest h7 h6 h0 => ⟨decodeFrame_fastReadBits c crcOn rest h7 h6 h0, headerOf_ne_fastRead h7 h6 h0⟩,
    fun c crcOn _ _ rest h7 h6 hm => ⟨decodeFrame_readModifyBits c crcOn rest h7 h6 hm, headerOf_ne_readModify h7 hm⟩,
    fun _ _ _ => ⟨rfl, rfl, rfl, rfl⟩⟩

/-! ## Frames read back -/

/-- The header of a request announces it (30_encoding.md R106). -/
theorem announces_request (c : Cfg) (k : Kind) (file : File) (sub : Sub) (hf : k = .fast → sub = 0) :
    ∃ ext, Announces c (headerOf k file sub) k ext file sub := by
  by_cases hk : k = .fast
  · obtain rfl := hf hk
    subst hk
    exact ⟨false, announces_fast c file⟩
  · exact announces_headerOf c k file sub hk

/-- Settles O13: the header announces the request; a read is its header alone, and of every other frame the trailer is
taken off again. -/
theorem frameRoundTrip : Obligations.FrameRoundTrip := by
  intro c crcOn k file sub payload hread hfast hmod
  obtain ⟨ext, ha⟩ := announces_request c k file sub fun hk => (hfast hk).2
  refine ⟨{ kind := k, ext, file, sub, payload, crcOk := true }, ?_, rfl, rfl, rfl, rfl, rfl⟩
  by_cases hk : k = .read
  · subst hk
    rw [hread rfl, ← decodeFrame_read crcOn ha]
    simp [frameBytes]
  · have hsent : (crcOn && k != .read) = crcOn := by simp [hk]
    rw [hsent]
    exact decodeFrame_frameBytes crcOn ha hk (fun h => (hfast h).1) hmod

end Sys2Proof.Proofs
end

section
/-! SUPPORT. The CRC (30_encoding.md R100 to R102): its composition laws, and that every step of it loses nothing. -/

namespace Sys2Proof.Proofs

/-! ## Composition -/

theorem crc8From_append (poly init : Byte) (a b : List Byte) :
    crc8From poly init (a ++ b) = crc8From poly (crc8From poly init a) b :=
  List.foldl_append

/-- The eight steps leave the remainder 0 at 0. -/
@[simp] theorem crcEight_zero (poly : Byte) : crcEight poly 0 = 0 := by
  simp [crcEight, crcShift]

/-- A byte equal to the remainder cancels it. -/
theorem crcByte_self (poly r : Byte) : crcByte poly r r = 0 := by
  simp only [crcByte, BitVec.xor_self]
  exact crcEight_zero poly

/-- Settles O17: the CRC is a fold over the bytes, and its own value as the next byte cancels the remainder; R101's values
are computed. -/
theorem crcComposition : Obligations.CrcComposition := by
  refine ⟨fun poly init a b => ⟨rfl, crc8From_append poly init a b, ?_⟩, ?_, ?_, ?_, ?_⟩
  · rw [crc8From_append]
    exact crcByte_self poly _
  all_goals decide +kernel

/-! ## One changed byte -/

/-- With a constant term, bit 0 of the next remainder tells whether the step reduced by the generator. -/
theorem crcShift_bit0 {poly : Byte} (hp : poly.getLsbD 0 = true) (r : Byte) :
    (crcShift poly r).getLsbD 0 = r.getLsbD 7 := by
  unfold crcShift
  split <;> simp_all

/-- So one step can be undone. -/
theorem crcShift_injective {poly : Byte} (hp : poly.getLsbD 0 = true) : Function.Injective (crcShift poly) := by
  intro r q h
  have htop : r.getLsbD 7 = q.getLsbD 7 := by
    rw [← crcShift_bit0 hp r, h, crcShift_bit0 hp q]
  have hlow : r <<< 1 = q <<< 1 := by
    simp only [crcShift, htop] at h
    split at h
    · exact (BitVec.xor_left_inj poly).1 h
    · exact h
  ext i hi
  by_cases h7 : i = 7
  · subst h7
    simpa using htop
  · have hbit : (r <<< 1).getLsbD (i + 1) = (q <<< 1).getLsbD (i + 1) := by rw [hlow]
    simpa [show i + 1 < 8 by omega] using hbit

theorem crcEight_injective {poly : Byte} (hp : poly.getLsbD 0 = true) : Function.Injective (crcEight poly) :=
  (crcShift_injective hp).iterate 8

/-- Remainders that differ differ still after the bytes of a message. -/
theorem crc8From_injective {poly : Byte} (hp : poly.getLsbD 0 = true) (bytes : List Byte) :
    Function.Injective (crc8From poly · bytes) := by
  induction bytes with
  | nil => exact Function.injective_id
  | cons b rest ih =>
    intro r q h
    have hbyte : crcByte poly r b = crcByte poly q b := ih h
    exact (BitVec.xor_left_inj b).1 (crcEight_injective hp hbyte)

/-- Settles O18: the changed byte changes the remainder, and what follows it keeps remainders apart. -/
theorem crcDetectsOneChangedByte : Obligations.CrcDetectsOneChangedByte := by
  intro poly init x y a b hp hxy h
  rw [crc8From_append, crc8From_append] at h
  have hbyte : crcByte poly (crc8From poly init a) x = crcByte poly (crc8From poly init a) y :=
    crc8From_injective hp b h
  exact hxy ((BitVec.xor_right_inj _).1 (crcEight_injective hp hbyte))

end Sys2Proof.Proofs
end

section
/-! SUPPORT. The frame rows (30_encoding.md R92 to R97), run as single emissions of the codec (log 6). -/

namespace Sys2Proof.Proofs

open Sys2Proof.Machine Sys2Proof.Laws

/-! ## What an admitted request does, and a refused one -/

/-- The end of a write of the CMD port is its answer. -/
theorem settle_write (hdr body : List Byte) (ok : Bool) (s : State) :
    settle (cmdTask (.write hdr body)) (if ok then .ok else .failed) s =
      answer (if ok then .ok .unit else .err .busError) s := by
  cases ok <;> rfl

/-- A write that starts is the whole operation: one transaction and its answer. -/
theorem sendsOnce_of_start {i : Instr} {s : State} {hdr body : List Byte} (h : exec i s = start (.write hdr body) s) :
    SendsOnce i s hdr body :=
  h.trans (congrArg Host.Outcome.next (settle_write hdr body (busWrite hdr body s).1 (busWrite hdr body s).2))

/-- An admitted write request of the codec. -/
theorem sendsOnce_of_codec {i : Instr} {s : State} {hdr body : List Byte} {b : Bool} (hs : Ready s) (hb : b = true)
    (h : exec i s = codec b (.write hdr body) s) : SendsOnce i s hdr body :=
  sendsOnce_of_start (h.trans (codec_ready hs hb _))

theorem quiet_of_undisturbed {s : State} (h : Undisturbed s) : Quiet s :=
  ⟨h.cfg, h.ready.2, h.sched, h.served⟩

theorem checkedAddr_iff (c : Cfg) (addr : Word) : checkedAddr c addr = true ↔ addr ≠ c.REG.CRC_ECHO := by
  simp [checkedAddr]

/-- A read that starts is the pseudocode of a read that answers its bytes, when no alarm can be raised (40_codec.md R148). -/
theorem runsTo_of_start_read {i : Instr} {s : State} {hdr : List Byte} {addr : Word} {n : Nat} (hs : Undisturbed s)
    (hna : NoAlarm s) (h : exec i s = start (.read hdr (checkedAddr s.cfg addr) n .bytes) s) :
    RunsTo i s (Whole.fetchHdr hdr (addr ≠ s.cfg.REG.CRC_ECHO) n (fun d => .ret (.ok (.bytes d))) s) := by
  obtain ⟨k, hrun⟩ : Ends (runTask (cmdTask (.read hdr (checkedAddr s.cfg addr) n .bytes)) s)
      (Whole.fetchHdr hdr (addr ≠ s.cfg.REG.CRC_ECHO) n (fun d => .ret (.ok (.bytes d))) s) :=
    ends_read _ hdr _ _ n s _ rfl rfl (checkedAddr_iff s.cfg addr) (quiet_of_undisturbed hs) hna
      (fun d s' _ ph => ends_settle_done _ ph (.data d) _ s' s' rfl)
      (fun s' _ ph => ends_settle_done _ ph .failed _ s' s' rfl)
  exact ⟨_, k, h, hrun⟩

/-- 40_codec.md R142, R143: a request refused at admission. -/
theorem protocolError_of_codec {i : Instr} {s : State} {p : Point} {b : Bool} (hs : Ready s) (hb : b = false)
    (h : exec i s = codec b p s) : ProtocolError i s := by
  subst hb
  refine (h.trans (request_ready s _ hs.1 hs.2)).trans ?_
  simp only [Bool.false_eq_true, if_false, protocolError]
  split <;> rfl

/-! ## Admitted lengths (40_codec.md R141) -/

theorem lenWf_iff (c : Cfg) (n : Nat) : lenWf c n = true ↔ 1 ≤ n ∧ n < c.MAX_LEN ∧ n < 0x10000 := by
  simp [lenWf, and_assoc]

theorem lenWf_eq_false_iff (c : Cfg) (n : Nat) :
    lenWf c n = false ↔ n = 0 ∨ c.MAX_LEN ≤ n ∨ 0x10000 ≤ n := by
  rw [← Bool.not_eq_true, lenWf_iff]
  omega

theorem headerOf_modify {k : Kind} (hk : k.isModify = true) (file : File) (sub : Sub) :
    headerOf k file sub = hdrExt true file sub k.modBits := by
  cases k <;> simp_all [headerOf, Kind.isModify, Kind.isWrite]

/-- Settles O28: each row is the codec's one emission, and its length decides admission. -/
theorem busFrameRowsRun : Obligations.BusFrameRowsRun := by
  intro s file sub len body hs
  have hready := hs.ready
  refine ⟨fun h1 hmax h16 => ?_, fun a o => ?_, fun a o => ?_, fun a o => ?_, fun h1 hmax hna => ?_, fun hlen => ?_,
    fun hlen => ?_⟩
  · have hwf := (lenWf_iff s.cfg body.length).2 ⟨h1, hmax, h16⟩
    exact ⟨sendsOnce_of_codec hready hwf rfl, sendsOnce_of_codec hready hwf rfl⟩
  · rw [headerOf_modify rfl]
    exact sendsOnce_of_codec hready rfl rfl
  · rw [headerOf_modify rfl]
    exact sendsOnce_of_codec hready rfl rfl
  · rw [headerOf_modify rfl]
    exact sendsOnce_of_codec hready rfl rfl
  · have hwf := (lenWf_iff s.cfg len.toNat).2 ⟨h1, hmax, len.isLt⟩
    exact ⟨runsTo_of_start_read hs hna (codec_ready hready hwf _),
      runsTo_of_start_read hs hna (codec_ready hready hwf _)⟩
  · have hbad : lenWf s.cfg len.toNat = false := by
      rw [lenWf_eq_false_iff]
      exact hlen.imp (congrArg BitVec.toNat) .inl
    exact ⟨protocolError_of_codec hready hbad rfl, protocolError_of_codec hready hbad rfl⟩
  · have hbad : lenWf s.cfg body.length = false := by
      rw [lenWf_eq_false_iff]
      exact hlen.imp_left (congrArg List.length)
    exact ⟨protocolError_of_codec hready hbad rfl, protocolError_of_codec hready hbad rfl⟩

end Sys2Proof.Proofs
end

section
/-! SUPPORT. The codec's requests (40_codec.md R140 to R153): which are admitted, what a refused one meets, and what the
reads and the write-class requests run to. -/

namespace Sys2Proof.Proofs

open Sys2Proof.Machine Sys2Proof.Laws

/-! ## Admission (40_codec.md R141 to R143) -/

/-- 30_encoding.md R110: the mode words of the plain kinds. -/
theorem kindOf_plain_eq_some {mode : Half} {k : Kind} (h : kindOf mode false = some k) :
    (k, mode) ∈ [(Kind.read, 0x0000#16), (.write, 0x8000#16), (.mod8, 0x8001#16), (.mod16, 0x8002#16),
      (.mod32, 0x8003#16)] := by
  simp only [kindOf, Bool.false_eq_true, if_false, beq_iff_eq] at h
  repeat' split at h
  all_goals cases h
  all_goals
    subst mode
    decide

theorem kindOf_fast_eq_some {mode : Half} {k : Kind} (h : kindOf mode true = some k) : mode = 0x8000#16 ∧ k = .fast := by
  simp only [kindOf, if_true, Option.ite_none_right_eq_some, beq_iff_eq, Option.some.injEq] at h
  exact ⟨h.1, h.2.symm⟩

/-- 40_codec.md R141 (e). -/
theorem admitted_fast_iff (c : Cfg) (addr : Word) (offset len : Half) (buf : List Byte) :
    admitted c .fast addr offset len buf = true ↔ len = 0 ∧ addr.toNat < 32 ∧ offset = 0 ∧ buf = [] := by
  simp [admitted, BitVec.lt_def, and_assoc]

/-- 40_codec.md R141 (b) to (d). -/
theorem admitted_plain_iff (c : Cfg) {k : Kind} (hk : k ≠ .fast) (addr : Word) (offset len : Half) (buf : List Byte) :
    admitted c k addr offset len buf = true ↔
      lenWf c len.toNat = true ∧ (k.isModify = true → len.toNat = k.modLen) ∧
        (k ≠ .read → buf.length = len.toNat) := by
  cases k <;> simp_all [admitted, Kind.isModify, and_assoc]

theorem protocolError_of_exec {i : Instr} {s : State} (h : exec i s = protocolError s) : ProtocolError i s := by
  refine h.trans ?_
  unfold protocolError
  split <;> rfl

/-- 40_codec.md R144: an admitted request of a recognized kind starts its transaction. -/
theorem transact_admitted {s : State} (hs : Ready s) {addr : Word} {offset len mode : Half} {fast : Bool}
    {buf : List Byte} {k : Kind} (hk : kindOf mode fast = some k) (ha : admitted s.cfg k addr offset len buf = true) :
    exec (.transact addr offset len mode fast buf) s = start (transactPoint s.cfg k addr offset len buf) s := by
  simp only [exec, execTransact, request_ready s _ hs.1 hs.2, hk, ha, if_true]

/-- 40_codec.md R142, R143: a request no recognized kind admits meets the protocol error. -/
theorem transact_refused {s : State} (hs : Ready s) {addr : Word} {offset len mode : Half} {fast : Bool}
    {buf : List Byte} (h : ∀ k, kindOf mode fast = some k → admitted s.cfg k addr offset len buf = false) :
    ProtocolError (.transact addr offset len mode fast buf) s := by
  apply protocolError_of_exec
  simp only [exec, execTransact, request_ready s _ hs.1 hs.2]
  cases hk : kindOf mode fast with
  | none => rfl
  | some k => simp only [h k hk, Bool.false_eq_true, if_false]

/-- Settles O19: no kind is recognized, or the kind's own rule of admission is broken. -/
theorem transactAdmission : Obligations.TransactAdmission := by
  rintro s addr offset len mode fast buf hs (⟨rfl, hbad⟩ | ⟨rfl, hbad⟩) <;> refine transact_refused hs fun k hk => ?_
  · obtain ⟨rfl, rfl⟩ := kindOf_fast_eq_some hk
    rw [← Bool.not_eq_true, admitted_fast_iff]
    rintro ⟨hlen, hcode, hoffset, hbuf⟩
    rcases hbad with h | h | h | h | h
    · exact h rfl
    · exact h hlen
    · omega
    · exact h hoffset
    · exact h hbuf
  · have hmode := kindOf_plain_eq_some hk
    rw [← Bool.not_eq_true, admitted_plain_iff _ (by rintro rfl; simp at hmode), lenWf_iff]
    rintro ⟨⟨h1, hmax, -⟩, hmod, hbuf⟩
    rcases hbad with h | rfl | h | ⟨rfl, h⟩ | ⟨rfl, h⟩ | ⟨rfl, h⟩ | ⟨h, hlen⟩
    · exact h (List.mem_map_of_mem (f := Prod.snd) hmode)
    · exact absurd h1 (by decide)
    · omega
    · obtain rfl : k = .mod8 := by simpa using hmode
      exact h (BitVec.eq_of_toNat_eq (hmod rfl))
    · obtain rfl : k = .mod16 := by simpa using hmode
      exact h (BitVec.eq_of_toNat_eq (hmod rfl))
    · obtain rfl : k = .mod32 := by simpa using hmode
      exact h (BitVec.eq_of_toNat_eq (hmod rfl))
    · exact hlen (hbuf (by rintro rfl; exact h (by simpa using hmode)))

/-! ## Write-class requests -/

/-- 42_fastcmd.md R200: the code is the operand's five bits. -/
theorem hdrFast_of_lt {addr : Word} (h : addr.toNat < 32) :
    hdrFast (addr.extractLsb' 0 5) = [0x81#8 ||| addr.setWidth 8 <<< 1] := by
  have hcode : (addr.extractLsb' 0 5).setWidth 8 = addr.setWidth 8 := by
    apply BitVec.eq_of_toNat_eq
    simp
    omega
  rw [hdrFast, hcode]

/-- 40_codec.md R141 (d): a modify is admitted with the payload of its width. -/
theorem transact_modify_admitted {s : State} (hs : Ready s) {addr : Word} {offset mode : Half} {buf : List Byte}
    {k : Kind} (hk : kindOf mode false = some k) (hm : k.isModify = true) (hmax : k.modLen < s.cfg.MAX_LEN)
    (hlen : buf.length = k.modLen) :
    exec (.transact addr offset (BitVec.ofNat 16 buf.length) mode false buf) s =
      start (transactPoint s.cfg k addr offset (BitVec.ofNat 16 buf.length) buf) s := by
  have hsmall : 1 ≤ k.modLen ∧ k.modLen < 0x10000 := by cases k <;> simp_all [Kind.isModify, Kind.modLen]
  have hnat : (BitVec.ofNat 16 buf.length).toNat = k.modLen := by
    rw [hlen, BitVec.toNat_ofNat, Nat.mod_eq_of_lt hsmall.2]
  refine transact_admitted hs hk ((admitted_plain_iff s.cfg (by rintro rfl; cases hm) ..).2 ?_)
  rw [hnat, lenWf_iff]
  exact ⟨⟨hsmall.1, hmax, hsmall.2⟩, fun _ => rfl, fun _ => hlen⟩

/-- Settles O20: each kind is admitted, and its transaction is one write. -/
theorem transactSendsOneFrame : Obligations.TransactSendsOneFrame := by
  intro s addr offset buf hs
  refine ⟨fun h1 hmax h16 => ?_, fun k mode hk hmax hlen => ?_, fun hcode => ?_⟩
  · exact sendsOnce_of_start (transact_write_ready hs addr offset ((lenWf_iff s.cfg _).2 ⟨h1, hmax, h16⟩))
  · simp only [List.mem_cons, Prod.mk.injEq, List.not_mem_nil, or_false] at hk
    rcases hk with ⟨rfl, rfl⟩ | ⟨rfl, rfl⟩ | ⟨rfl, rfl⟩
    all_goals exact sendsOnce_of_start (transact_modify_admitted hs rfl rfl hmax hlen)
  · rw [← hdrFast_of_lt hcode]
    exact sendsOnce_of_start (transact_admitted (k := .fast) hs rfl ((admitted_fast_iff ..).2 ⟨rfl, hcode, rfl, rfl⟩))

/-! ## Reads -/

theorem unLE16_eq_append (d : List Byte) : unLE16 d = byteAt d 1 ++ byteAt d 0 := by
  refine BitVec.eq_of_getLsbD_eq fun i hi => ?_
  simp only [unLE16, BitVec.getLsbD_append, BitVec.getLsbD_or, BitVec.getLsbD_shiftLeft, BitVec.getLsbD_setWidth]
  interval_cases i <;> simp

theorem unLE32_eq_append (d : List Byte) : unLE32 d = byteAt d 3 ++ byteAt d 2 ++ byteAt d 1 ++ byteAt d 0 := by
  refine BitVec.eq_of_getLsbD_eq fun i hi => ?_
  simp only [unLE32, BitVec.getLsbD_append, BitVec.getLsbD_or, BitVec.getLsbD_shiftLeft, BitVec.getLsbD_setWidth]
  interval_cases i <;> simp

/-- The one read of a request (40_codec.md R144, R149). -/
def readPoint (c : Cfg) (addr : Word) (offset : Half) (n : Nat) (ret : RetKind) : Point :=
  .read (accessHdr .read addr offset) (checkedAddr c addr) n ret

/-- Every form of a read is one read whose bytes are turned into the value. -/
theorem readRequest_starts {s : State} (hs : Ready s) {addr : Word} {offset : Half} {i : Instr} {n : Nat}
    {v : List Byte → Value} (h : ReadRequest s.cfg addr offset i n v) :
    ∃ ret : RetKind, ret.value = v ∧ exec i s = start (readPoint s.cfg addr offset n ret) s := by
  cases h with
  | read8 => exact ⟨.bits8, rfl, request_ready s _ hs.1 hs.2⟩
  | read16 => exact ⟨.bits16, funext fun d => congrArg Value.bits16 (unLE16_eq_append d), request_ready s _ hs.1 hs.2⟩
  | read32 => exact ⟨.bits32, funext fun d => congrArg Value.bits32 (unLE32_eq_append d), request_ready s _ hs.1 hs.2⟩
  | transact len buf h1 hmax =>
    exact ⟨.bytes, rfl, transact_admitted (k := .read) hs rfl ((lenWf_iff s.cfg _).2 ⟨h1, hmax, len.isLt⟩)⟩

/-- Settles O22: the started read is the pseudocode of a read, when no alarm can be raised. -/
theorem readsRunToTheirValue : Obligations.ReadsRunToTheirValue := by
  intro s addr offset i n v hs hna hi
  obtain ⟨ret, rfl, hstart⟩ := readRequest_starts hs.ready hi
  obtain ⟨k, hrun⟩ : Ends (runTask (cmdTask (readPoint s.cfg addr offset n ret)) s)
      (Whole.fetch addr offset n (fun d => .ret (.ok (ret.value d))) s) :=
    ends_read _ _ _ _ n s _ rfl rfl (checkedAddr_iff s.cfg addr) (quiet_of_undisturbed hs) hna
      (fun d s' _ ph => ends_settle_done _ ph (.data d) _ s' s' rfl)
      (fun s' _ ph => ends_settle_done _ ph .failed _ s' s' rfl)
  exact ⟨_, k, hstart, hrun⟩

/-- 40_codec.md R148, R149: the reads whose CRC is not checked. -/
theorem checksRead_eq_false {s : State} {addr : Word} (h : s.ctx.crcMode ≠ .writeRead ∨ addr = s.cfg.REG.CRC_ECHO) :
    checksRead (checkedAddr s.cfg addr) s = false := by
  rcases h with h | h <;> simp [checksRead, checkedAddr, h]

/-- Settles O23: the read is not checked, so its one transaction ends it. -/
theorem uncheckedReadsAreOneTransaction : Obligations.UncheckedReadsAreOneTransaction := by
  intro s addr offset i n v hs hun hi
  obtain ⟨ret, rfl, hstart⟩ := readRequest_starts hs hi
  refine hstart.trans (congrArg Host.Outcome.next ?_)
  show readAction (cmdTask (readPoint s.cfg addr offset n ret)) _ _ n s = _
  unfold readAction
  simp only [checksRead_eq_false hun, busRead_eq]
  cases (transfer s.cfg (accessHdr .read addr offset) n s.env).1 <;> rfl

/-! ## Checked reads (40_codec.md R148, R150) -/

/-- Bytes that are as many as were asked for are kept as they are. -/
theorem fitBytes_length (t : Nat) (d : List Byte) : fitBytes t d.length d = d := by
  refine List.ext_getElem (by simp [fitBytes]) fun i _ h => ?_
  simp [fitBytes, h]

theorem busRead_scripted {s : State} {hdr d : List Byte} {rest : List Reply} (h : s.env.replies = .data d :: rest) :
    (busRead hdr d.length s).1 = some d := by
  have hnext : nextReply d.length s.env = .data d := by simp [nextReply, h]
  simp only [busRead_eq, transfer, hnext, fitBytes_length]

@[simp] theorem busRead_replies (hdr : List Byte) (n : Nat) (s : State) :
    (busRead hdr n s).2.env.replies = s.env.replies.tail :=
  transfer_replies ..

/-- A read by the codec's header stores nothing (20_memory.md R82). -/
theorem busRead_access_mem (addr : Word) (offset : Half) (n : Nat) (s : State) :
    (busRead (accessHdr .read addr offset) n s).2.env.chip.mem = s.env.chip.mem := by
  obtain ⟨ext, ha⟩ := announces_headerOf s.cfg .read (fileOf (combined addr offset)) (subOf (combined addr offset)) nofun
  exact busRead_mem _ n s ext _ _ ha

/-- A waiting task takes its next action. -/
theorem step_park {t : Task} {s : State} (hq : Quiet s) : step (park t s) = .next (runTask t s) := by
  rw [step_task (park t s) t s.stack hq.cfg hq.halted hq.sched rfl, ← hq.served]
  rfl

/-- The data of a checked read are in: its echo read is next. -/
theorem start_checkedRead {s : State} {addr : Word} {offset : Half} {n : Nat} {ret : RetKind} {d : List Byte}
    (hmode : s.ctx.crcMode = .writeRead) (haddr : addr ≠ s.cfg.REG.CRC_ECHO)
    (hd : (busRead (accessHdr .read addr offset) n s).1 = some d) :
    start (readPoint s.cfg addr offset n ret) s = .next
      (park ⟨.cmd, readPoint s.cfg addr offset n ret, .echo (crc8 s.cfg (accessHdr .read addr offset ++ d)) d⟩
        (busRead (accessHdr .read addr offset) n s).2) := by
  have hcheck : checksRead (checkedAddr s.cfg addr) s = true := by simp [checksRead, checkedAddr, hmode, haddr]
  refine congrArg Host.Outcome.next (?_ : readAction _ _ _ n s = _)
  simp only [readAction, hd, hcheck, if_true]

/-- 40_codec.md R148: the echo is the CRC computed over header and data, and the read is over. -/
theorem step_echo_equal {o : Owner} {p : Point} {c : Byte} {d : List Byte} {s : State} (hq : Quiet s)
    (he : (busRead (echoHdr s.cfg) 1 s).1 = some [c]) :
    step (park ⟨o, p, .echo c d⟩ s) = .next (settle ⟨o, p, .echo c d⟩ (.data d) (busRead (echoHdr s.cfg) 1 s).2) := by
  simp [step_park hq, runTask, echoAction, he, byteAt]

/-- 40_codec.md R150: the echo differs, and the alarm is next if its callback is present. -/
theorem step_echo_differs {o : Owner} {p : Point} {c e : Byte} {d : List Byte} {s : State} (hq : Quiet s)
    (he : (busRead (echoHdr s.cfg) 1 s).1 = some [e]) (hne : c ≠ e) (hcb : s.ctx.has .onSpiReadCrcError = true) :
    step (park ⟨o, p, .echo c d⟩ s) = .next (park ⟨o, p, .alarm d⟩ (busRead (echoHdr s.cfg) 1 s).2) := by
  simp [step_park hq, runTask, echoAction, he, byteAt, hne, hcb]

/-- 40_codec.md R150, 60_exceptions.md R390: the alarm calls the host, and the read keeps its data meanwhile. -/
theorem step_alarm {o : Owner} {p : Point} {d : List Byte} {s : State} (hq : Quiet s)
    (hcb : s.ctx.has .onSpiReadCrcError = true) :
    step (park ⟨o, p, .alarm d⟩ s) = .next (callHost .onSpiReadCrcError ⟨o, p, .held d⟩ s) := by
  simp [step_park hq, runTask, callbackAction, hcb]

/-- The echo read, next after a read whose bytes were scripted. -/
theorem echoRead_scripted {s : State} {hdr d : List Byte} {n : Nat} {e : Byte} {rest : List Reply}
    (h : s.env.replies = .data d :: .data [e] :: rest) :
    (busRead (echoHdr s.cfg) 1 (busRead hdr n s).2).1 = some [e] :=
  busRead_scripted (d := [e]) (rest := rest) (by simp [h])

/-- The state after the two reads of a checked read. -/
def afterEcho (addr : Word) (offset : Half) (n : Nat) (s : State) : State :=
  (busRead (echoHdr s.cfg) 1 (busRead (accessHdr .read addr offset) n s).2).2

theorem sameBlock_afterEcho (addr : Word) (offset : Half) (n : Nat) (s : State) :
    SameBlock s (afterEcho addr offset n s) :=
  (sameBlock_busRead _ n s).trans (sameBlock_busRead _ 1 _)

/-- The two reads store nothing (20_memory.md R82). -/
theorem afterEcho_mem (addr : Word) (offset : Half) (n : Nat) (s : State) :
    (afterEcho addr offset n s).env.chip.mem = s.env.chip.mem :=
  (busRead_access_mem s.cfg.REG.CRC_ECHO 0 1 _).trans (busRead_access_mem addr offset n s)

theorem afterEcho_trace {addr : Word} {offset : Half} {s : State} {d : List Byte} {e : Byte} {rest : List Reply}
    (h : s.env.replies = .data d :: .data [e] :: rest) :
    (afterEcho addr offset d.length s).trace =
      .busRead (accessHdr .read s.cfg.REG.CRC_ECHO 0) 1 (some [e]) ::
        .busRead (accessHdr .read addr offset) d.length (some d) :: s.trace := by
  simp only [afterEcho, busRead_trace, echoRead_scripted h, busRead_scripted h]
  rfl

/-- A run of one step more. -/
theorem run_succ {s t u : State} {k : Nat} (hs : step s = .next t) (h : Sys2Proof.core.run k t = .next u) :
    Sys2Proof.core.run (k + 1) s = .next u := by
  simp only [Host.Core.run, show Sys2Proof.core.step s = .next t from hs, h]

/-- Settles O24: the second step finds the echo equal and answers. -/
theorem checkedReadWithEqualEcho : Obligations.CheckedReadWithEqualEcho := by
  rintro s addr offset i _ v d rest hs hmode haddr hi rfl hreplies
  obtain ⟨ret, rfl, hstart⟩ := readRequest_starts hs.ready hi
  have hblock := sameBlock_afterEcho addr offset d.length s
  refine ⟨afterEcho addr offset d.length s, ?_, afterEcho_trace hreplies, hblock.ctx, hblock.evt, hblock.seq,
    hblock.stack, rfl, afterEcho_mem addr offset d.length s, by simp [afterEcho, hreplies]⟩
  have hquiet := (sameBlock_busRead (accessHdr .read addr offset) d.length s).quiet (quiet_of_undisturbed hs)
  exact ⟨_, 1, hstart.trans (start_checkedRead hmode haddr (busRead_scripted hreplies)),
    run_succ (step_echo_equal hquiet (echoRead_scripted hreplies)) rfl⟩

/-- 60_exceptions.md R390: the handler on top returns to a read, which answers its data. -/
theorem step_ret_to_read {s : State} {f : CallbackId} {hdr d : List Byte} {checked : Bool} {n : Nat} {ret : RetKind}
    {below : List Entry} {rest : List Input} (hq : Quiet s) (hin : s.inputs = .ret :: rest)
    (hst : s.stack = .handler f :: .task { owner := .cmd, pt := .read hdr checked n ret, phase := .held d } :: below) :
    step s = .next (answer (.ok (ret.value d)) { s with stack := below, inputs := rest }) := by
  rw [step_fetch s hq.cfg hq.halted hq.sched (by simp [hst])]
  simp only [fetch, hin, decode, returnFromHandler, hst]
  rfl

/-- Settles O25: the second step finds the echo different, the third calls the host, and the handler's return answers. -/
theorem readCrcMismatchFiresCallback : Obligations.ReadCrcMismatchFiresCallback := by
  rintro s addr offset i _ v d e rest inputs hs hmode haddr hcb hi rfl hreplies hne
  obtain ⟨ret, rfl, hstart⟩ := readRequest_starts hs.ready hi
  have hblock := sameBlock_afterEcho addr offset d.length s
  have hquiet := (sameBlock_busRead (accessHdr .read addr offset) d.length s).quiet (quiet_of_undisturbed hs)
  have hquiet' := hblock.quiet (quiet_of_undisturbed hs)
  refine ⟨_, 2, _, _, hstart.trans (start_checkedRead hmode haddr (busRead_scripted hreplies)),
    run_succ (step_echo_differs hquiet (echoRead_scripted hreplies) hne hcb)
      (run_succ (step_alarm hquiet' (hblock.ctx ▸ hcb)) rfl), ?_, ?_, hblock.ctx, hblock.evt,
    step_ret_to_read ⟨hquiet'.cfg, hquiet'.halted, hquiet'.sched, hquiet'.served⟩ rfl rfl, rfl, hblock.stack,
    hblock.ctx, hblock.evt, rfl⟩
  · show Event.callback _ (afterEcho addr offset d.length s).evt (afterEcho addr offset d.length s).ctx ::
      (afterEcho addr offset d.length s).trace = _
    rw [hblock.evt, hblock.ctx, afterEcho_trace hreplies]
  · exact ⟨_, congrArg (fun st => _ :: _ :: st) hblock.stack⟩

/-! ## The halted state -/

/-- No step but a protocol error under its parameter sets `seq.halted`. -/
theorem stepEffect_halts {s t : State} (eff : StepEffect s t) (hs : s.seq.halted = false) (ht : t.seq.halted = true) :
    s.cfg.HALT_ON_PROTOCOL_ERROR = true ∧ ∃ i, fetches s i ∧ mayHalt i = true := by
  rw [← tick_seq s] at hs
  have keeps {P : Prop} (h : t.seq.halted = (tick s).seq.halted) : P := absurd ((h.symm.trans ht).symm.trans hs) nofun
  cases eff with
  | passStarts =>
    obtain ⟨-, -, -, -, hhalted, -⟩ := startPass_frame .passIrq (tick s)
    exact keeps hhalted
  | taskRuns x below => exact keeps (runTask_frame x _).halted
  | waits => exact keeps rfl
  | handlerReturns f x below rest =>
    obtain ⟨-, -, -, -, hseq, -⟩ :=
      settle_frame x (.data x.phase.heldData) { tick s with stack := below, inputs := rest }
    exact keeps (by rw [hseq])
  | executes i rest _ hf he =>
    cases (exec_effect i _ t he).2 with
    | answered => exact keeps rfl
    | initialized => cases ht
    | deinitialized => cases ht
    | set => exact keeps rfl
    | halts hi hc => exact ⟨tick_cfg s ▸ hc, i, hf, hi⟩
    | started p => exact keeps (runTask_frame _ _).halted
    | pass =>
      obtain ⟨-, -, -, -, hhalted, -⟩ := startPass_frame .passCmd { tick s with inputs := rest }
      exact keeps hhalted

/-- Settles O10: of all a step can do, only a protocol error under its parameter sets `seq.halted`. -/
theorem haltNeedsParameter : Obligations.HaltNeedsParameter := by
  intro s t hstep hs ht
  rcases step_powerCycle_or_effect hstep with ⟨-, rfl⟩ | ⟨-, eff⟩
  · cases ht
  obtain ⟨hc, i, hf, hi⟩ := stepEffect_halts eff hs ht
  refine ⟨hc, i, hf, ?_⟩
  cases i with
  | transact | fastcmd | busRdShort | busWrShort | busRdExt | busWrExt => simp
  | _ => cases hi

/-! ## Vectors -/

/-- Settles O11: each word is decoded by evaluation. -/
theorem vectorWordsDecode : Obligations.VectorWordsDecode := by
  refine ⟨rfl, rfl, rfl, rfl, rfl, rfl, rfl, rfl, rfl, ?_, ?_⟩ <;> decide +kernel

end Sys2Proof.Proofs
end

section
/-! SUPPORT. The write-class accessors and the modifies (41_accessors.md R173 to R179): each is one frame, and a modify
that reaches the chip leaves `(old & and) | or`. -/

namespace Sys2Proof.Proofs

open Sys2Proof.Machine Sys2Proof.Laws

/-! ## One frame each -/

/-- 41_accessors.md R181: an accessor's transaction is admitted by construction. -/
theorem sendsOnce_of_writeAccessor {i : Instr} {s : State} {k : Kind} {addr : Word} {offset : Half} {bytes : List Byte}
    (hs : Ready s) (h : exec i s = writeAccessor k addr offset bytes s) :
    SendsOnce i s (accessHdr k addr offset) bytes :=
  sendsOnce_of_start (h.trans (writeAccessor_ready hs k addr offset bytes))

/-- Settles O21: the op code selects the accessor, the low bits of `v0` and `v1` are its operands, and its one
transaction is an accessor's write. -/
theorem writeAccessorsSendOneFrame : Obligations.WriteAccessorsSendOneFrame := by
  intro s addr offset hs
  refine ⟨fun v => ⟨?_, sendsOnce_of_writeAccessor hs rfl⟩, fun v => ⟨?_, sendsOnce_of_writeAccessor hs rfl⟩,
    fun v => ⟨rfl, sendsOnce_of_writeAccessor hs rfl⟩, fun a o => ⟨?_, sendsOnce_of_writeAccessor hs rfl⟩,
    fun a o => ⟨?_, sendsOnce_of_writeAccessor hs rfl⟩, fun a o => ⟨rfl, sendsOnce_of_writeAccessor hs rfl⟩⟩
  · exact congrArg (Instr.write8 addr offset) (low8 v)
  · exact congrArg (Instr.write16 addr offset) (low16 v)
  · exact congrArg₂ (Instr.modify8 addr offset) (low8 a) (low8 o)
  · exact congrArg₂ (Instr.modify16 addr offset) (low16 a) (low16 o)

/-! ## The bytes a modify leaves -/

theorem length_le16 (v : Half) : (le16 v).length = 2 := rfl

theorem length_le32 (v : Word) : (le32 v).length = 4 := rfl

/-- 30_encoding.md R97: the payload of a modify is two masks of its width. -/
theorem length_masks {k : Kind} {ands ors : List Byte} (ha : ands.length = k.modLen / 2)
    (ho : ors.length = k.modLen / 2) : (ands ++ ors).length = k.modLen := by
  have heven : k.modLen / 2 + k.modLen / 2 = k.modLen := by cases k <;> rfl
  rw [List.length_append, ha, ho, heven]

/-- 41_accessors.md R179: the bytes after an instruction whose one action is a modify. -/
theorem startedModify_bytes {s t : State} {i : Instr} {k : Kind} {file : File} {sub : Sub} {ands ors : List Byte}
    (hg : CrcAgree s) (hm : memWf s.env.chip.mem = true) (hk : k.isModify = true) (ha : ands.length = k.modLen / 2)
    (ho : ors.length = k.modLen / 2) (hi : exec i s = start (.write (headerOf k file sub) (ands ++ ors)) s)
    (he : exec i s = .next t) :
    (∀ a, a ∉ cellKeys file sub ands.length → readByte t.env.chip.mem a = readByte s.env.chip.mem a) ∧
    ∀ n, n < ands.length → readByte t.env.chip.mem (cellKey file (sub.toNat + n)) =
      if reachesChip 0 s.env then
        readByte s.env.chip.mem (cellKey file (sub.toNat + n)) &&& ands.getD n 0 ||| ors.getD n 0
      else readByte s.env.chip.mem (cellKey file (sub.toNat + n)) := by
  have hlen : ands.length = ors.length := ha.trans ho.symm
  have hsmall : ands.length ≤ 0x10000 := by rw [ha]; cases k <;> decide
  obtain ⟨ext, hann⟩ := announces_headerOf s.cfg k file sub (by rintro rfl; cases hk)
  rw [start_write_env (hi ▸ he), busWrite_mem_modify _ _ s hg k ext file sub hann hk (length_masks ha ho), ← ha,
    List.take_left, List.drop_left]
  cases reachesChip 0 s.env
  · simp
  · refine ⟨fun a hout => ?_, fun n hn => ?_⟩
    · exact readByte_storeBytes_other file _ _ _ a (by simpa [hlen] using not_mem_cellKeys hout)
    · rw [if_pos rfl, if_pos rfl, ← modifiedBytes_getD s.env.chip.mem file sub.toNat n ands ors hlen hn]
      exact readByte_storeBytes_wrapping file _ _ _ n hm (by simpa [hlen] using hn) (by simpa [hlen] using hsmall)

theorem transactPoint_modify (c : Cfg) {k : Kind} (hk : k.isModify = true) (addr : Word) (offset len : Half)
    (buf : List Byte) : transactPoint c k addr offset len buf = .write (accessHdr k addr offset) buf := by
  cases k with
  | mod8 | mod16 | mod32 => rfl
  | read | write | fast => cases hk

/-- An admitted modify request is the write of its two masks (40_codec.md R141, R144). -/
theorem transact_modify_ready {s : State} (hs : Ready s) {k : Kind} {addr : Word} {offset len mode : Half}
    {ands ors : List Byte} (hlen : len.toNat = k.modLen) (hmode : kindOf mode false = some k)
    (hk : k.isModify = true) (hmax : k.modLen < s.cfg.MAX_LEN) (ha : ands.length = k.modLen / 2)
    (ho : ors.length = k.modLen / 2) :
    exec (.transact addr offset len mode false (ands ++ ors)) s =
      start (.write (accessHdr k addr offset) (ands ++ ors)) s := by
  have hmasks := length_masks ha ho
  obtain rfl : len = BitVec.ofNat 16 (ands ++ ors).length := by simp [hmasks, ← hlen]
  rw [transact_modify_admitted hs hmode hk hmax hmasks, transactPoint_modify s.cfg hk]

/-- A modify frame is the write of its two masks with the header of its kind (30_encoding.md R96, log 6). -/
theorem modifyFrame_ready {i : Instr} {s : State} {k : Kind} {file : File} {sub : Sub} {masks : List Byte}
    (hs : Ready s) (hk : k.isModify = true)
    (h : exec i s = codec true (.write (hdrExt true file sub k.modBits) masks) s) :
    exec i s = start (.write (headerOf k file sub) masks) s := by
  rw [h, codec_ready hs rfl, headerOf_modify hk]

/-- Settles O52: each of these forms is one modify of its width, so its bytes are what a modify leaves. -/
theorem modifiesAndThenOr : Obligations.ModifiesAndThenOr := by
  intro s t i file sub ands ors _ hs hg hm hi he
  have hstart : ∃ k : Kind, k.isModify = true ∧ ands.length = k.modLen / 2 ∧ ors.length = k.modLen / 2 ∧
      exec i s = start (.write (headerOf k file sub) (ands ++ ors)) s := by
    rcases hi with ⟨addr, offset, rfl, rfl, hi⟩ | hi
    · rcases hi with ⟨a, o, rfl, rfl, rfl⟩ | ⟨a, o, rfl, rfl, rfl⟩ | ⟨a, o, rfl, rfl, rfl⟩ | ⟨rfl, ha, ho, hmax⟩ |
        ⟨rfl, ha, ho, hmax⟩ | ⟨rfl, ha, ho, hmax⟩
      · exact ⟨.mod8, rfl, rfl, rfl, writeAccessor_ready hs ..⟩
      · exact ⟨.mod16, rfl, length_le16 a, length_le16 o, writeAccessor_ready hs ..⟩
      · exact ⟨.mod32, rfl, length_le32 a, length_le32 o, writeAccessor_ready hs ..⟩
      · exact ⟨.mod8, rfl, ha, ho, transact_modify_ready hs rfl rfl rfl hmax ha ho⟩
      · exact ⟨.mod16, rfl, ha, ho, transact_modify_ready hs rfl rfl rfl hmax ha ho⟩
      · exact ⟨.mod32, rfl, ha, ho, transact_modify_ready hs rfl rfl rfl hmax ha ho⟩
    · rcases hi with ⟨a, o, rfl, rfl, rfl⟩ | ⟨a, o, rfl, rfl, rfl⟩ | ⟨a, o, rfl, rfl, rfl⟩
      · exact ⟨.mod8, rfl, rfl, rfl, modifyFrame_ready hs rfl rfl⟩
      · exact ⟨.mod16, rfl, length_le16 a, length_le16 o, modifyFrame_ready hs rfl rfl⟩
      · exact ⟨.mod32, rfl, length_le32 a, length_le32 o, modifyFrame_ready hs rfl rfl⟩
  obtain ⟨k, hk, ha, ho, hexec⟩ := hstart
  exact startedModify_bytes hg hm hk ha ho hexec he

end Sys2Proof.Proofs
end

section
/-! SUPPORT. The fast commands (42_fastcmd.md R200 to R230): the dispatcher's frame is one write, and every row of the
catalogue is the dispatcher at its code. -/

namespace Sys2Proof.Proofs

open Sys2Proof.Machine Sys2Proof.Laws

/-- 42_fastcmd.md R200: the dispatcher is exactly one `BusWrite` of the code's byte. -/
theorem sendsOnce_of_fastCmd {i : Instr} {s : State} {code : File} (hs : Ready s) (h : exec i s = fastCmd code s) :
    SendsOnce i s [0x81#8 ||| code.setWidth 8 <<< 1] [] :=
  sendsOnce_of_start (h.trans (request_ready s _ hs.1 hs.2))

/-- 30_encoding.md R112: the row of op code 0x20. -/
theorem decodeCmd_fastcmd {r : CmdReq} (h : r.op = 0x20) : decodeCmd r = .fastcmd r.addr := by
  cases r
  cases h
  rfl

theorem exec_fastcmd_ready {s : State} (hs : Ready s) (addr : Word) :
    exec (.fastcmd addr) s =
      if addr < 32 then start (.write (hdrFast (addr.extractLsb' 0 5)) []) s else protocolError s := by
  simp only [exec, execFastcmd, request_ready s _ hs.1 hs.2]

/-- Settles O26: the operand check is the comparison of `addr` with 32, and an admitted code is one write. -/
theorem fastcmdSendsItsCode : Obligations.FastcmdSendsItsCode := by
  intro s r hs hop
  have hexec := exec_fastcmd_ready hs r.addr
  refine ⟨decodeCmd_fastcmd hop, fun hcode => ?_, fun hcode => ?_⟩
  · rw [if_pos (BitVec.lt_def.2 hcode), hdrFast_of_lt hcode] at hexec
    exact sendsOnce_of_start hexec
  · have hge : ¬r.addr < 32 := BitVec.not_lt.2 (BitVec.le_def.2 hcode)
    rw [if_neg hge] at hexec
    exact protocolError_of_exec hexec

/-- Settles O27: row by row, a named command is the dispatcher at its code; the plain frame is one admitted write of the
codec. -/
theorem fastCommandsSendOneFrame : Obligations.FastCommandsSendOneFrame := by
  intro s hs
  refine ⟨fun p hp => ?_, fun code => sendsOnce_of_codec hs rfl rfl⟩
  have hrow : exec p.1 s = fastCmd p.2 s := by
    -- The two columns of the table agree, so each row does.
    refine List.map_inj_left (f := fun q => exec q.1 s) (g := fun q => fastCmd q.2 s).1 ?_ p hp
    rfl
  exact sendsOnce_of_fastCmd hs hrow

end Sys2Proof.Proofs
end

section
/-! SUPPORT. How the steps of an operation of any owner make up its pseudocode: rules from the point a task stands at to
the pseudocode that is left (`At`), and from the end of an action to it (`Enter`). The rules of `Laws/Runs.lean` speak of
an operation whose failure leaves the state as it is; here the end is `finish`, which for a pass also returns (R384). -/

namespace Sys2Proof.Proofs

open Sys2Proof.Machine Sys2Proof.Laws

/-! ## Runs -/

/-- The machine comes from `s` to `t`. -/
def Leads (s t : State) : Prop :=
  ∃ k, Sys2Proof.core.run k s = .next t

theorem leads_refl (s : State) : Leads s s :=
  ⟨0, rfl⟩

/-- A waiting task takes its next action. -/
theorem leads_park {t : Task} {s u : State} (hq : Quiet s) (h : Leads (runTask t s) u) : Leads (park t s) u := by
  obtain ⟨k, hk⟩ := h
  exact ⟨k + 1, run_succ (step_park hq) hk⟩

/-- From `s` the operation of the owner `o` comes to its end with `y`: it answers `y.1` if there is somebody to answer,
and a pass returns. -/
def EndsAs (o : Owner) (s : State) (y : Result × State) : Prop :=
  Leads s (finish o y.1 y.2)

/-- A request that starts at the point `p` runs to what its task ends with. -/
theorem runsTo_of_start {i : Instr} {s : State} {p : Point} {y : Result × State} (hi : exec i s = start p s)
    (h : EndsAs .cmd (runTask ⟨.cmd, p, .ready⟩ s) y) : RunsTo i s y := by
  obtain ⟨k, hk⟩ := h
  exact ⟨_, k, hi, hk⟩

/-- A read, with its echo read where it is checked, is `Whole.fetchHdr`, when no alarm can be raised (40_codec.md R148). -/
theorem endsAs_readAction {o : Owner} {t : Task} {hdr : List Byte} {checked : Bool} {P : Prop} [Decidable P] {n : Nat}
    {s : State} {k : List Byte → Whole} (hP : checked = true ↔ P) (hq : Quiet s) (hna : NoAlarm s)
    (hk : ∀ d s', SameBlock s s' → EndsAs o (settle t (.data d) s') (k d s'))
    (hf : ∀ s', SameBlock s s' → EndsAs o (settle t .failed s') (.err .busError, s')) :
    EndsAs o (readAction t hdr checked n s) (Whole.fetchHdr hdr P n k s) := by
  unfold readAction Whole.fetchHdr
  have hb := sameBlock_busRead hdr n s
  rcases h1 : busRead hdr n s with ⟨_ | d, s1⟩ <;> rw [h1] at hb
  · exact hf s1 hb
  have hcheck : checksRead checked s = true ↔ s.ctx.crcMode = .writeRead ∧ P := by
    rw [checksRead, Bool.and_eq_true, beq_iff_eq, hP, and_comm]
  by_cases hc : s.ctx.crcMode = .writeRead ∧ P
  · simp only [if_pos (hcheck.2 hc), if_pos hc]
    refine leads_park (hb.quiet hq) ?_
    have hcfg : s1.cfg = s.cfg := hb.cfg
    have hcb : s1.ctx.has .onSpiReadCrcError = false :=
      (congrArg (Ctx.has · _) hb.ctx).trans (hna.resolve_right (not_not_intro hc.1))
    simp only [runTask, echoAction, echoHdr, hcfg]
    have hb2 := sameBlock_busRead (accessHdr .read s.cfg.REG.CRC_ECHO 0) 1 s1
    rcases h2 : busRead (accessHdr .read s.cfg.REG.CRC_ECHO 0) 1 s1 with ⟨_ | e, s2⟩ <;> rw [h2] at hb2
    · exact hf s2 (hb.trans hb2)
    · simp only [hcb, Bool.and_false, Bool.false_eq_true, if_false]
      exact hk d s2 (hb.trans hb2)
  · simp only [if_neg (mt hcheck.1 hc), if_neg hc]
    exact hk d s1 hb

/-! ## Points and what follows them -/

/-- What an operation under way keeps: the configuration, the context but for `ctx.dbl`, and the quiet around it. -/
structure Steady (c : Cfg) (x : Ctx) (s : State) : Prop where
  cfg : s.cfg = c
  ctx : s.ctx = { x with dbl := s.ctx.dbl }
  quiet : Quiet s

theorem steady_of_undisturbed {s : State} (h : Undisturbed s) : Steady s.cfg s.ctx s :=
  ⟨rfl, rfl, quiet_of_undisturbed h⟩

theorem Steady.sameBlock {c : Cfg} {x : Ctx} {s t : State} (h : Steady c x s) (hb : SameBlock s t) : Steady c x t :=
  ⟨hb.cfg.trans h.cfg, by rw [hb.ctx]; exact h.ctx, hb.quiet h.quiet⟩

theorem Steady.onlyRecord {c : Cfg} {x : Ctx} {s t : State} (h : Steady c x s) (ho : OnlyRecord s t) :
    Steady c x t := by
  have hx := h.ctx
  rw [ho]
  exact ⟨h.cfg, by rw [hx], h.quiet.cfg, h.quiet.halted, h.quiet.sched, h.quiet.served⟩

/-- No callback of an alarm, or no read that is checked, in the context `x`. -/
def Alarmless (x : Ctx) : Prop :=
  x.has .onSpiReadCrcError = false ∨ x.crcMode ≠ .writeRead

theorem Steady.noAlarm {c : Cfg} {x : Ctx} {s : State} (h : Steady c x s) (hx : Alarmless x) : NoAlarm s := by
  unfold NoAlarm
  rw [h.ctx]
  exact hx

/-- With no callback at all, none is present. -/
theorem has_of_cb_zero {x : Ctx} (hx : x.cb = 0) (f : CallbackId) : x.has f = false := by
  simp [Ctx.has, hx]

/-- A task of the owner `o` that stands at the point `p` runs the pseudocode `w` to its end. -/
def At (c : Cfg) (x : Ctx) (o : Owner) (p : Point) (w : Whole) : Prop :=
  ∀ s, Steady c x s → EndsAs o (runTask ⟨o, p, .ready⟩ s) (w s)

/-- A task of the owner `o` goes on, or ends, as `next` says. -/
def proceed (o : Owner) (next : State × Next) : State :=
  match next.2 with
  | .goto p => park ⟨o, p, .ready⟩ next.1
  | .done r => finish o r next.1

theorem settle_eq_proceed (t : Task) (r : ActResult) (s : State) :
    settle t r s = proceed t.owner (resumeAt t.pt r s) :=
  rfl

/-- From what `e` gives as following an action, the pseudocode `w` runs to its end. -/
def Enter (c : Cfg) (x : Ctx) (o : Owner) (e : State → State × Next) (w : Whole) : Prop :=
  ∀ s, Steady c x s → EndsAs o (proceed o (e s)) (w s)

section
variable {c : Cfg} {x : Ctx} {o : Owner} {p : Point} {e : State → State × Next} {w : Whole}

theorem enter_goto (h : At c x o p w) (he : ∀ s, s.cfg = c → e s = (s, .goto p) := by rintro _ rfl; rfl) :
    Enter c x o e w := by
  intro s hs
  rw [he s hs.cfg]
  exact leads_park hs.quiet (h s hs)

theorem enter_done (r : Result) (he : ∀ s, s.cfg = c → e s = (s, .done r) := by rintro _ rfl; rfl) :
    Enter c x o e (Whole.ret r) := by
  intro s hs
  rw [he s hs.cfg]
  exact leads_refl _

theorem enter_congr {e' : State → State × Next} (h : Enter c x o e' w) (he : ∀ s, s.cfg = c → e s = e' s) :
    Enter c x o e w :=
  fun s hs => (congrArg (fun y => EndsAs o (proceed o y) (w s)) (he s hs.cfg)).mpr (h s hs)

theorem enter_at (h : At c x o p w) : Enter c x o (fun s => (s, .goto p)) w :=
  enter_goto h

theorem enter_end (r : Result) : Enter c x o (fun s => (s, .done r)) (Whole.ret r) :=
  enter_done r

/-- A write to `ctx.dbl` or to the record comes with the end of an action (log 15). -/
theorem enter_upd {e' : State → State × Next} {f : State → State} (hf : ∀ s, OnlyRecord s (f s)) (h : Enter c x o e w)
    (he : ∀ s, s.cfg = c → e' s = e (f s) := by rintro _ rfl; rfl) : Enter c x o e' (Whole.upd f w) :=
  enter_congr (fun s hs => h (f s) (hs.onlyRecord (hf s))) he

theorem enter_record {e' : State → State × Next} {f : EventRec → EventRec} (h : Enter c x o e w)
    (he : ∀ s, s.cfg = c → e' s = e (setEvt (f s.evt) s) := by rintro _ rfl; rfl) :
    Enter c x o e' (Whole.record f w) :=
  enter_upd (fun s => onlyRecord_setEvt (f s.evt) s) h he

/-- A branch of the pseudocode whose body begins at a point. -/
theorem enter_when {e' : State → State × Next} {b : State → Bool} {body : Whole → Whole} (hp : At c x o p (body w))
    (h : Enter c x o e w)
    (he : ∀ s, s.cfg = c → e' s = if b s then (s, .goto p) else e s := by rintro _ rfl; rfl) :
    Enter c x o e' (Whole.when b body w) := by
  intro s hs
  rw [he s hs.cfg]
  simp only [Whole.when]
  split
  · exact leads_park hs.quiet (hp s hs)
  · exact h s hs

/-- A write action (40_codec.md R140): what follows it, or `BusError`. -/
theorem at_send {hdr : List Byte} {body : State → List Byte} (hk : Enter c x o (resumeAt p .ok) w)
    (ha : ∀ s, s.cfg = c → actionOf p s = .write hdr (body s) := by rintro _ rfl; rfl)
    (hf : ∀ s, resumeAt p .failed s = (s, busFail) := by exact fun _ => rfl) :
    At c x o p (fun s => Whole.send hdr (body s) w s) := by
  intro s hs
  have hb := hs.sameBlock (sameBlock_busWrite hdr (body s) s)
  simp only [runTask, ha s hs.cfg, perform, Whole.send, settle_eq_proceed]
  rcases hw : busWrite hdr (body s) s with ⟨_ | _, s'⟩ <;> rw [hw] at hb
  · exact (congrArg (fun y => EndsAs o (proceed o y) (.err .busError, s')) (hf s')).mpr (leads_refl _)
  · exact hk s' hb

/-- A read action, when no alarm can be raised (40_codec.md R148). -/
theorem at_fetch {addr : State → Word} {offset : Half} {n : Nat} {k : List Byte → Whole} (hx : Alarmless x)
    (hk : ∀ d, Enter c x o (resumeAt p (.data d)) (k d))
    (ha : ∀ s, s.cfg = c → actionOf p s = readAct c (addr s) offset n := by rintro _ rfl; rfl)
    (hf : ∀ s, resumeAt p .failed s = (s, busFail) := by exact fun _ => rfl) :
    At c x o p (fun s => Whole.fetch (addr s) offset n k s) := by
  intro s hs
  simp only [runTask, ha s hs.cfg, perform, readAct, Whole.fetch, hs.cfg]
  refine endsAs_readAction (checkedAddr_iff c (addr s)) hs.quiet (hs.noAlarm hx) (fun d s' hb => ?_) (fun s' hb => ?_)
  · exact hk d s' (hs.sameBlock hb)
  · rw [settle_eq_proceed, hf s']
    exact leads_refl _

/-- A context write, with no message. -/
theorem at_silent (h : Enter c x o (resumeAt p .ok) w)
    (ha : ∀ s, s.cfg = c → actionOf p s = .silent := by rintro _ rfl; rfl) : At c x o p w := by
  intro s hs
  simp only [runTask, ha s hs.cfg, perform]
  exact h s hs

/-- An absent callback is skipped (45_event_classifier.md R334). -/
theorem at_absent {f : CallbackId} (hx : x.cb = 0) (h : Enter c x o (resumeAt p (.data [])) w)
    (ha : ∀ s, actionOf p s = .callback f := by exact fun _ => rfl) : At c x o p w := by
  intro s hs
  have habsent : s.ctx.has f = false := has_of_cb_zero (by rw [hs.ctx]; exact hx) f
  simp only [runTask, ha s, perform, callbackAction, habsent, Bool.false_eq_true, if_false]
  exact h s hs

end

end Sys2Proof.Proofs
end

section
/-! SUPPORT. `start_tx`, `start_rx` and `force_trx_off` (43_trx_sequencer.md R242 to R263) against their pseudocode. -/

namespace Sys2Proof.Proofs

open Sys2Proof.Machine Sys2Proof.Laws

/-! ## Modes (43_trx_sequencer.md R242, R251) -/

theorem txStart_modeByte (flv : Flavour) (w4r : Bool) : txStart (modeByte flv w4r) = some ⟨true, flv, w4r⟩ := by
  cases flv <;> cases w4r <;> rfl

theorem rxStart_modeByte {flv : Flavour} (iol : Bool) (hflv : flv ≠ .cca) :
    rxStart (modeByte flv iol) = some ⟨false, flv, iol⟩ := by
  cases flv with
  | cca => exact absurd rfl hflv
  | _ => cases iol <;> rfl

/-- Every mode that names a transmit is the mode byte of its flavour and modifier. -/
theorem modeByte_of_txStart (mode : Byte) : ((txStart mode).all fun st => mode == modeByte st.flv st.opt) = true := by
  revert mode; decide +kernel

/-- Every mode that names a receive is the mode byte of its flavour, never `Cca`, and modifier. -/
theorem modeByte_of_rxStart (mode : Byte) :
    ((rxStart mode).all fun st => st.flv != .cca && mode == modeByte st.flv st.opt) = true := by
  revert mode; decide +kernel

theorem txStart_eq_none {mode : Byte} (h : ∀ flv w4r, mode ≠ modeByte flv w4r) : txStart mode = none := by
  have hbyte := modeByte_of_txStart mode
  cases hst : txStart mode with
  | none => rfl
  | some st => exact absurd (by simpa [hst] using hbyte) (h st.flv st.opt)

theorem rxStart_eq_none {mode : Byte} (h : ∀ flv iol, flv ≠ .cca → mode ≠ modeByte flv iol) : rxStart mode = none := by
  have hbyte := modeByte_of_rxStart mode
  cases hst : rxStart mode with
  | none => rfl
  | some st =>
    obtain ⟨hcca, hmode⟩ : st.flv ≠ .cca ∧ mode = modeByte st.flv st.opt := by simpa [hst] using hbyte
    exact absurd hmode (h st.flv st.opt hcca)

theorem exec_startTx_modeByte {s : State} (hs : Ready s) (flv : Flavour) (w4r : Bool) :
    exec (.startTx (modeByte flv w4r)) s = start (.trx (trxFirst ⟨true, flv, w4r⟩) ⟨true, flv, w4r⟩) s := by
  simp only [exec, execStartTx, request_ready s _ hs.1 hs.2, txStart_modeByte]

theorem exec_startRx_modeByte {s : State} (hs : Ready s) {flv : Flavour} (iol : Bool) (hflv : flv ≠ .cca) :
    exec (.startRx (modeByte flv iol)) s = start (.trx (trxFirst ⟨false, flv, iol⟩) ⟨false, flv, iol⟩) s := by
  simp only [exec, execStartRx, request_ready s _ hs.1 hs.2, rxStart_modeByte iol hflv]

/-! ## The actions of a start -/

/-- 43_trx_sequencer.md R247: the warning bit as the pseudocode tests it. -/
theorem isLate_iff (c : Cfg) (b : Byte) : isLate c b = true ↔ b &&& (c.M.HPDWARN >>> 24).setWidth 8 ≠ 0 := by
  have hbyte : c.M.HPDWARN.extractLsb' 24 8 = (c.M.HPDWARN >>> 24).setWidth 8 := by
    ext i hi
    simp
  simp [isLate, anySet, hbyte]

section
variable {c : Cfg} {x : Ctx}

/-- The fail-open `RX` of a late receive, unless `IdleOnLate` (43_trx_sequencer.md R255). -/
theorem enter_afterOff (flv : Flavour) (iol : Bool) :
    Enter c x .cmd (fun s => (s, trxAfterOff ⟨false, flv, iol⟩))
      (Whole.when (fun _ => !iol) (Whole.fast c.FC.RX) (Whole.ret (.err .late))) := by
  cases iol with
  | true => exact enter_done (.err .late)
  | false => exact enter_goto (at_send (p := .trx .lateRx ⟨false, flv, false⟩) (enter_done (.err .late)))

/-- A late start is cancelled (43_trx_sequencer.md R247, R255). -/
def lateTail (c : Cfg) (st : Start) : Whole :=
  if st.tx then Whole.fast c.FC.TXRXOFF (Whole.ret (.err .late))
  else
    Whole.when (fun _ => c.RX_LATE_ISSUES_OFF) (Whole.fast c.FC.TXRXOFF) <|
    Whole.when (fun _ => !st.opt) (Whole.fast c.FC.RX) <|
    Whole.ret (.err .late)

theorem enter_late (st : Start) : Enter c x .cmd (fun s => (s, trxLate c st)) (lateTail c st) := by
  obtain ⟨tx, flv, opt⟩ := st
  cases tx with
  | true => exact enter_goto (at_send (p := .trx .lateOff ⟨true, flv, opt⟩) (enter_done (.err .late)))
  | false =>
    refine enter_when (at_send (p := .trx .lateOff ⟨false, flv, opt⟩) (enter_afterOff flv opt)) (enter_afterOff flv opt)
      fun s _ => ?_
    simp only [trxLate, Bool.false_or]
    split <;> rfl

/-- The check of the status byte after a delayed start (43_trx_sequencer.md R247, R255). -/
def lateCheck (c : Cfg) (st : Start) : Whole :=
  Whole.fetch c.REG.STATUS_LO 3 1 fun b =>
    if byteAt b 0 &&& (c.M.HPDWARN >>> 24).setWidth 8 ≠ 0 then lateTail c st else Whole.ret (.ok .unit)

theorem at_lateRead (hx : Alarmless x) (st : Start) : At c x .cmd (.trx .lateRead st) (lateCheck c st) := by
  refine at_fetch hx fun d => ?_
  split
  · next hlate =>
    refine enter_congr (enter_late st) fun s hs => congrArg (Prod.mk s) ?_
    exact hs ▸ if_pos ((isLate_iff s.cfg _).2 (hs ▸ hlate))
  · next hlate =>
    refine enter_done (.ok .unit) fun s hs => congrArg (Prod.mk s) ?_
    exact if_neg (mt (isLate_iff s.cfg _).1 (hs ▸ hlate))

/-- The start command and what follows it. -/
def commandTail (c : Cfg) (st : Start) : Whole :=
  Whole.fast (st.code c.FC) (if st.flv.isDelayed then lateCheck c st else Whole.ret (.ok .unit))

theorem at_command (hx : Alarmless x) (st : Start) : At c x .cmd (.trx .command st) (commandTail c st) := by
  refine at_send ?_
  split
  · next hdelayed => exact enter_goto (at_lateRead hx st) fun s _ => congrArg (Prod.mk s) (if_pos hdelayed)
  · next himmediate => exact enter_done (.ok .unit) fun s _ => congrArg (Prod.mk s) (if_neg himmediate)

/-- The antenna correction (43_trx_sequencer.md R243). -/
theorem at_antCorrect (hx : Alarmless x) {st : Start} {w : Whole} (h : At c x .cmd (.trx .command st) w) :
    At c x .cmd (.trx .antRead st) (Whole.antCorrect c (antReg c st.flv) w) :=
  at_fetch hx fun a => enter_goto <| at_fetch (p := .trx (.dxRead (unLE16 a)) st) hx fun dx =>
    enter_goto <| at_send (p := .trx (.dxWrite (correctedDelay c (unLE32 dx) (unLE16 a))) st) <| enter_goto h

theorem at_correct (hx : Alarmless x) {st : Start} {w : Whole} (h : At c x .cmd (.trx .command st) w) :
    At c x .cmd (.trx (trxCorrect st) st) (Whole.correct c st.flv w) := by
  obtain ⟨tx, flv, opt⟩ := st
  cases flv with
  | dlyRxTs | dlyTxTs => exact at_antCorrect hx h
  | immediate | delayed | dlyRef | cca => exact h

/-- `start_tx` with the tail of a start. -/
theorem startTx_eq (c : Cfg) (flv : Flavour) (w4r : Bool) :
    Whole.startTx c flv w4r = Whole.correct c flv (commandTail c ⟨true, flv, w4r⟩) := by
  cases flv <;> rfl

/-- `start_rx` with the tail of a start; an immediate receive has no correction and no check. -/
theorem startRx_eq (c : Cfg) {flv : Flavour} (iol : Bool) (hflv : flv ≠ .cca) :
    Whole.startRx c flv iol = Whole.store c.REG.PLL_COMMON (le16 c.PLL_COMMON_DEFAULT)
      (Whole.correct c flv (commandTail c ⟨false, flv, iol⟩)) := by
  cases flv with
  | cca => exact absurd rfl hflv
  | _ => simp [Whole.startRx, Whole.correct, commandTail, lateCheck, lateTail, Start.code, rxcmd, Flavour.isDelayed]

theorem at_startTx (hx : Alarmless x) (flv : Flavour) (w4r : Bool) :
    At c x .cmd (.trx (trxFirst ⟨true, flv, w4r⟩) ⟨true, flv, w4r⟩) (Whole.startTx c flv w4r) := by
  rw [startTx_eq]
  exact at_correct hx (at_command hx ⟨true, flv, w4r⟩)

theorem at_startRx (hx : Alarmless x) {flv : Flavour} (iol : Bool) (hflv : flv ≠ .cca) :
    At c x .cmd (.trx (trxFirst ⟨false, flv, iol⟩) ⟨false, flv, iol⟩) (Whole.startRx c flv iol) := by
  rw [startRx_eq c iol hflv]
  exact at_send (enter_goto (at_correct hx (at_command hx ⟨false, flv, iol⟩)))

/-! ## Critical sections (43_trx_sequencer.md R263) -/

/-- The guarded write between the two calls of the platform, whatever it is. -/
theorem at_mask {g : Guarded} {hdr body : List Byte} (ha : guardedAction c g = .write hdr body) :
    At c x .cmd (.crit .mask g) (Whole.guarded hdr body) := by
  intro s hs
  have hq : Quiet (maskOff s) := ⟨hs.quiet.cfg, hs.quiet.halted, hs.quiet.sched, hs.quiet.served⟩
  refine leads_park hq ?_
  have hq' := (sameBlock_busWrite hdr body (maskOff s)).quiet hq
  have hact : critAction s.cfg (.run s.env.platMask) g = .write hdr body := by
    rw [hs.cfg]
    exact ha
  show EndsAs .cmd (perform _ (critAction s.cfg (.run s.env.platMask) g) (maskOff s)) _
  rw [hact, Whole.guarded]
  simp only [perform]
  rcases hy : busWrite hdr body (maskOff s) with ⟨ok, s'⟩
  rw [hy] at hq'
  refine leads_park hq' ?_
  cases ok <;> exact leads_refl _

/-- 43_trx_sequencer.md R260, R262: a no-op in the idle class, else the critical section. -/
theorem at_stateRead (hx : Alarmless x) : At c x .cmd .stateRead (Whole.forceTrxOff c) := by
  refine at_fetch hx fun d => ?_
  split
  · next hidle => exact enter_done (.ok .unit) fun s hs => congrArg (Prod.mk s) (if_pos (hs ▸ hidle))
  · next hactive => exact enter_goto (at_mask rfl) fun s hs => congrArg (Prod.mk s) (if_neg (hs ▸ hactive))

end

/-! ## The starts and `force_trx_off` -/

theorem runsTo_startTx {s : State} (hs : Undisturbed s) (hna : NoAlarm s) (flv : Flavour) (w4r : Bool) :
    RunsTo (.startTx (modeByte flv w4r)) s (Whole.startTx s.cfg flv w4r s) :=
  runsTo_of_start (exec_startTx_modeByte hs.ready flv w4r) (at_startTx hna flv w4r s (steady_of_undisturbed hs))

theorem runsTo_startRx {s : State} (hs : Undisturbed s) (hna : NoAlarm s) {flv : Flavour} (iol : Bool)
    (hflv : flv ≠ .cca) : RunsTo (.startRx (modeByte flv iol)) s (Whole.startRx s.cfg flv iol s) :=
  runsTo_of_start (exec_startRx_modeByte hs.ready iol hflv) (at_startRx hna iol hflv s (steady_of_undisturbed hs))

theorem runsTo_forceTrxOff {s : State} (hs : Undisturbed s) (hna : NoAlarm s) :
    RunsTo .forceTrxOff s (Whole.forceTrxOff s.cfg s) :=
  runsTo_of_start (request_ready s _ hs.ready.1 hs.ready.2) (at_stateRead hna s (steady_of_undisturbed hs))

/-- Settles O30: a valid mode runs from its first point to its end; every other mode names no start. -/
theorem startTxFollowsPseudocode : Obligations.StartTxFollowsPseudocode := by
  refine ⟨fun s flv w4r hs hna => runsTo_startTx hs hna flv w4r, fun s mode hs hmode => ?_⟩
  simp only [AnswersOnly, exec, execStartTx, request_ready s _ hs.1 hs.2, txStart_eq_none hmode]
  rfl

/-- Settles O31: as for a transmit, after the PLL write; `Cca` names no receive. -/
theorem startRxFollowsPseudocode : Obligations.StartRxFollowsPseudocode := by
  refine ⟨fun s flv iol hflv hs hna => runsTo_startRx hs hna iol hflv, fun s mode hs hmode => ?_⟩
  simp only [AnswersOnly, exec, execStartRx, request_ready s _ hs.1 hs.2, rxStart_eq_none hmode]
  rfl

/-- Settles O32: the state read, and behind it nothing or the critical section. -/
theorem forceTrxOffFollowsPseudocode : Obligations.ForceTrxOffFollowsPseudocode :=
  fun _ hs hna => runsTo_forceTrxOff hs hna

/-! ## Late starts (43_trx_sequencer.md R247, R255, R256) -/

/-- From `s` to `t` the bus was asked: the messages `es` left, newest first, and the answers `rest` are still to come. -/
structure Sent (s t : State) (rest : List Reply) (es : List Event) : Prop where
  block : SameBlock s t
  replies : t.env.replies = rest
  trace : t.trace = es ++ s.trace

theorem Sent.trans {s t u : State} {r1 r2 : List Reply} {es fs : List Event} (h : Sent s t r1 es)
    (k : Sent t u r2 fs) : Sent s u r2 (fs ++ es) :=
  ⟨h.block.trans k.block, k.replies, by rw [k.trace, h.trace, List.append_assoc]⟩

theorem Sent.crcMode {s t : State} {rest : List Reply} {es : List Event} (h : Sent s t rest es)
    (hm : s.ctx.crcMode = .off) : t.ctx.crcMode = .off :=
  h.block.ctx ▸ hm

/-- A write that the chip answers, without a trailer. -/
theorem send_answered {s : State} {rest : List Reply} (hdr body : List Byte) (hm : s.ctx.crcMode = .off)
    (hr : s.env.replies = .chip :: rest) :
    ∃ t, Sent s t rest [.busWrite hdr body none true] ∧ ∀ k, Whole.send hdr body k s = k t := by
  have hok : (busWrite hdr body s).1 = true := by simp [busWrite_eq, transfer, nextReply, hr]
  have htrailer : trailer s hdr body = none := if_pos hm
  refine ⟨(busWrite hdr body s).2, ⟨sameBlock_busWrite hdr body s, ?_, ?_⟩, fun k => ?_⟩
  · exact (transfer_replies ..).trans (congrArg List.tail hr)
  · rw [busWrite_trace, hok, htrailer]
    rfl
  · unfold Whole.send
    generalize busWrite hdr body s = y at hok
    obtain ⟨_, t⟩ := y
    subst hok
    rfl

/-- A read with scripted bytes, not checked in mode `Off`. -/
theorem fetch_scripted {s : State} {d : List Byte} {rest : List Reply} (addr : Word) (offset : Half)
    (hm : s.ctx.crcMode = .off) (hr : s.env.replies = .data d :: rest) :
    ∃ t, Sent s t rest [.busRead (accessHdr .read addr offset) d.length (some d)] ∧
      ∀ k, Whole.fetch addr offset d.length k s = k d t := by
  have hd := busRead_scripted (hdr := accessHdr .read addr offset) hr
  refine ⟨(busRead (accessHdr .read addr offset) d.length s).2, ⟨sameBlock_busRead _ _ s, ?_, ?_⟩, fun k => ?_⟩
  · exact (transfer_replies ..).trans (congrArg List.tail hr)
  · rw [busRead_trace, hd]
    rfl
  · unfold Whole.fetch Whole.fetchHdr
    generalize busRead (accessHdr .read addr offset) d.length s = y at hd
    obtain ⟨_, t⟩ := y
    subst hd
    simp [hm]

/-- A fast command that the pseudocode makes when `b`. -/
theorem when_fast_answered {s : State} {rest : List Reply} (b : Bool) (code : File) (hm : s.ctx.crcMode = .off)
    (hr : s.env.replies = .chip :: rest) :
    ∃ t, Sent s t (if b then rest else .chip :: rest) (if b then [.busWrite (hdrFast code) [] none true] else []) ∧
      ∀ k, Whole.when (fun _ => b) (Whole.fast code) k s = k t := by
  cases b with
  | true => exact send_answered (hdrFast code) [] hm hr
  | false => exact ⟨s, ⟨⟨rfl, rfl, rfl, rfl, rfl, rfl, rfl, rfl⟩, hr, rfl⟩, fun _ => rfl⟩

/-- A delayed start whose status byte has the warning bit comes to its cancellation. -/
theorem commandTail_late {s : State} {c : Cfg} {st : Start} {b : Byte} {rest : List Reply}
    (hdelayed : st.flv.isDelayed = true) (hlate : isLate c b = true) (hm : s.ctx.crcMode = .off)
    (hr : s.env.replies = .chip :: .data [b] :: rest) :
    ∃ t, Sent s t rest [.busRead (accessHdr .read c.REG.STATUS_LO 3) 1 (some [b]),
        .busWrite (hdrFast (st.code c.FC)) [] none true] ∧ commandTail c st s = lateTail c st t := by
  obtain ⟨t1, h1, hsend⟩ := send_answered (hdrFast (st.code c.FC)) [] hm hr
  obtain ⟨t2, h2, hfetch⟩ := fetch_scripted c.REG.STATUS_LO 3 (h1.crcMode hm) h1.replies
  refine ⟨t2, h1.trans h2, ?_⟩
  calc commandTail c st s = lateCheck c st t1 := by rw [commandTail, if_pos hdelayed]; exact hsend _
    _ = lateTail c st t2 := (hfetch _).trans (congrFun (if_pos ((isLate_iff c b).1 hlate)) t2)

/-- A late transmit sends the off command and answers `Late`. -/
theorem lateTail_tx {s : State} {c : Cfg} {flv : Flavour} {opt : Bool} {rest : List Reply}
    (hm : s.ctx.crcMode = .off) (hr : s.env.replies = .chip :: rest) :
    ∃ t, Sent s t rest [.busWrite (hdrFast c.FC.TXRXOFF) [] none true] ∧
      lateTail c ⟨true, flv, opt⟩ s = (.err .late, t) := by
  obtain ⟨t, h, hsend⟩ := send_answered (hdrFast c.FC.TXRXOFF) [] hm hr
  exact ⟨t, h, hsend _⟩

/-- A late receive sends the off command where the configuration says so, `RX` unless `IdleOnLate`, and answers `Late`. -/
theorem lateTail_rx {s : State} {c : Cfg} {flv : Flavour} {opt : Bool} {rest : List Reply}
    (hm : s.ctx.crcMode = .off) (hr : s.env.replies = .chip :: .chip :: rest) :
    ∃ t rest', Sent s t rest' ((if opt then [] else [.busWrite (hdrFast c.FC.RX) [] none true]) ++
        if c.RX_LATE_ISSUES_OFF then [.busWrite (hdrFast c.FC.TXRXOFF) [] none true] else []) ∧
      lateTail c ⟨false, flv, opt⟩ s = (.err .late, t) := by
  obtain ⟨t1, h1, hoff⟩ := when_fast_answered c.RX_LATE_ISSUES_OFF c.FC.TXRXOFF hm hr
  obtain ⟨rest1, hrest1⟩ : ∃ rest1, t1.env.replies = .chip :: rest1 := by
    rw [h1.replies]
    split <;> exact ⟨_, rfl⟩
  obtain ⟨t2, h2, hrx⟩ := when_fast_answered (!opt) c.FC.RX (h1.crcMode hm) hrest1
  cases opt <;> exact ⟨t2, _, h1.trans h2, (hoff _).trans (hrx _)⟩

/-- A flavour that is not relative to a timestamp has no correction (43_trx_sequencer.md R245). -/
theorem correct_of_not_timestamped {flv : Flavour} (h : flv.timestamped = false) (c : Cfg) (k : Whole) :
    Whole.correct c flv k = k := by
  cases flv with
  | dlyRxTs | dlyTxTs => cases h
  | _ => rfl

/-- Settles O33: each start runs as its pseudocode, whose traffic under the scripted answers is the listed one. -/
theorem lateStartsAreCancelled : Obligations.LateStartsAreCancelled := by
  intro s flv opt b rest hs hm hflv hb
  obtain ⟨hdelayed, hplain, hcca⟩ : flv.isDelayed = true ∧ flv.timestamped = false ∧ flv ≠ .cca := by
    rcases hflv with rfl | rfl <;> exact ⟨rfl, rfl, nofun⟩
  have hna : NoAlarm s := .inr (by simp [hm])
  have hlate : isLate s.cfg b = true := by simpa [isLate, anySet] using hb
  refine ⟨fun hr => ?_, fun hr => ?_⟩
  · obtain ⟨t1, h1, hcommand⟩ := commandTail_late (st := ⟨true, flv, opt⟩) hdelayed hlate hm hr
    obtain ⟨t2, h2, htail⟩ := lateTail_tx (flv := flv) (opt := opt) (c := s.cfg) (h1.crcMode hm) h1.replies
    have hrun := runsTo_startTx hs hna flv opt
    rw [startTx_eq, correct_of_not_timestamped hplain, hcommand, htail] at hrun
    exact ⟨t2, hrun, (h1.trans h2).trace⟩
  · obtain ⟨t0, h0, hpll⟩ := send_answered (accessHdr .write s.cfg.REG.PLL_COMMON 0)
      (le16 s.cfg.PLL_COMMON_DEFAULT) hm hr
    obtain ⟨t1, h1, hcommand⟩ := commandTail_late (st := ⟨false, flv, opt⟩) hdelayed hlate (h0.crcMode hm) h0.replies
    obtain ⟨t2, rest', h2, htail⟩ := lateTail_rx (flv := flv) (opt := opt) (c := s.cfg) (h1.crcMode (h0.crcMode hm))
      h1.replies
    have hrun := runsTo_startRx hs hna opt hcca
    rw [startRx_eq s.cfg opt hcca, correct_of_not_timestamped hplain, Whole.store, hpll, hcommand, htail] at hrun
    exact ⟨t2, hrun, by simpa [hdrFast, Start.code] using ((h0.trans h1).trans h2).trace⟩

end Sys2Proof.Proofs
end

section
/-! SUPPORT. The double-buffer operations (44_dblbuf.md R280, R284, R286) and `irq_src_modify` (46_context_ops.md R361)
against their pseudocode. -/

namespace Sys2Proof.Proofs

open Sys2Proof.Machine Sys2Proof.Laws

section
variable {c : Cfg} {x : Ctx} {o : Owner} {e : State → State × Next} {w : Whole}

/-- 44_dblbuf.md R286: the buffer as the pseudocode names it. -/
theorem flipDbl_eq (s : State) :
    flipDbl s = { s with ctx := { s.ctx with dbl := if s.ctx.dbl = .buffer0 then .buffer1 else .buffer0 } } := by
  simp [flipDbl, setDbl, Dbl.other]

/-- `signal_buffer_free` past its test, at the two points `toggle` and `flip` of whichever operation makes it. -/
theorem at_free {toggle flip : Point} (h : Enter c x o e w)
    (ht : ∀ s, s.cfg = c → actionOf toggle s = fastAct c.FC.DB_TOGGLE := by rintro _ rfl; rfl)
    (htf : ∀ s, resumeAt toggle .failed s = (s, busFail) := by exact fun _ => rfl)
    (hto : ∀ s, s.cfg = c → resumeAt toggle .ok s = (s, .goto flip) := by exact fun _ _ => rfl)
    (hf : ∀ s, s.cfg = c → actionOf flip s = .silent := by exact fun _ _ => rfl)
    (hfo : ∀ s, s.cfg = c → resumeAt flip .ok s = e (flipDbl s) := by exact fun _ _ => rfl) :
    At c x o toggle (Whole.free c w) := by
  refine at_send (enter_goto (at_silent (enter_upd (fun s => onlyRecord_setDbl _ s) h fun s hs => ?_) hf) hto) ht htf
  rw [hfo s hs, flipDbl_eq]

theorem at_signalBufferFree : At c x .cmd (.dbl .toggle) (Whole.free c (Whole.ret (.ok .unit))) :=
  at_free (flip := .dbl .flip) (enter_end (.ok .unit))

theorem at_dblDisable : At c x .cmd (.dbl .disModify) (Whole.dblDisable c) :=
  at_send <| enter_goto <| at_silent (p := .dbl .disSet) <|
    enter_upd (fun s => onlyRecord_setDbl .off s) (enter_end (.ok .unit))

theorem at_dblEnable (auto : Bool) : At c x .cmd (.dbl (.enModify auto)) (Whole.dblEnable c auto) := by
  have hset : At c x .cmd (.dbl .enSet) (Whole.upd (fun s => { s with ctx := { s.ctx with dbl := .buffer0 } }) <|
      Whole.store c.REG.IND_ADDR (le32 (c.BUF1_FINFO_TARGET >>> 16)) <|
      Whole.store c.REG.IND_OFFSET (le32 (c.BUF1_FINFO_TARGET &&& 0x0000FFFF#32)) <|
      Whole.send (accessHdr .mod8 c.REG.DIAG_CFG c.DIAG_BYTE_OFF) [~~~c.M.MINDIAG, 0x00#8] <|
      Whole.ret (.ok .unit)) :=
    at_silent <| enter_upd (fun s => onlyRecord_setDbl .buffer0 s) <| enter_at <|
      at_send (p := .dbl .enIndAddr) <| enter_goto <| at_send (p := .dbl .enIndOffset) <| enter_goto <|
      at_send (p := .dbl .enDiag) <| enter_done (.ok .unit)
  cases auto <;> exact at_send (enter_goto hset)

end

theorem runsTo_signalBufferFree {s : State} (hs : Undisturbed s) (hd : s.ctx.dbl ≠ .off) :
    RunsTo .signalBufferFree s (Whole.free s.cfg (Whole.ret (.ok .unit)) s) := by
  have hactive : s.ctx.dbl.active = true := by simpa [Dbl.active] using hd
  refine runsTo_of_start (p := .dbl .toggle) ?_ (at_signalBufferFree s (steady_of_undisturbed hs))
  simp only [exec, execSignalBufferFree, request_ready s _ hs.ready.1 hs.ready.2, hactive, if_true]

theorem runsTo_dblDisable {s : State} (hs : Undisturbed s) : RunsTo .dblDisable s (Whole.dblDisable s.cfg s) :=
  runsTo_of_start (request_ready s _ hs.ready.1 hs.ready.2) (at_dblDisable s (steady_of_undisturbed hs))

theorem runsTo_dblEnable {s : State} (hs : Undisturbed s) (auto : Bool) :
    RunsTo (.dblEnable auto) s (Whole.dblEnable s.cfg auto s) :=
  runsTo_of_start (request_ready s _ hs.ready.1 hs.ready.2) (at_dblEnable auto s (steady_of_undisturbed hs))

theorem runsTo_irqSrcModify {s : State} (hs : Undisturbed s) (and or : Word) :
    RunsTo (.irqSrcModify and or) s
      (Whole.guarded (accessHdr .mod32 s.cfg.REG.IRQ_EN_LO 0) (le32 and ++ le32 or) s) :=
  runsTo_of_start (request_ready s _ hs.ready.1 hs.ready.2)
    (at_mask (g := .irqSrc and or) rfl s (steady_of_undisturbed hs))

end Sys2Proof.Proofs
end

section
/-! SUPPORT. A classifier pass of either owner, with every callback absent, against its pseudocode (45_event_classifier.md
R300): group by group, from the last to the first. -/

namespace Sys2Proof.Proofs

open Sys2Proof.Machine Sys2Proof.Laws

section
variable {c : Cfg} {x : Ctx} {o : Owner} {e : State → State × Next} {w : Whole}

theorem alarmless_of_cb_zero (hx : x.cb = 0) : Alarmless x :=
  .inl (has_of_cb_zero hx _)

/-- A point of the pass at which `signal_buffer_free` is made when double-buffering is active (R327 to R329). -/
theorem enter_freeIf {toggle : PassPt} {flip : Point} {v : Snap} {e' : State → State × Next} (h : Enter c x o e w)
    (ht : ∀ s, s.cfg = c → actionOf (.pass toggle v) s = fastAct c.FC.DB_TOGGLE := by rintro _ rfl; rfl)
    (hto : ∀ s, s.cfg = c → resumeAt (.pass toggle v) .ok s = (s, .goto flip) := by exact fun _ _ => rfl)
    (hf : ∀ s, s.cfg = c → actionOf flip s = .silent := by exact fun _ _ => rfl)
    (hfo : ∀ s, s.cfg = c → resumeAt flip .ok s = e (flipDbl s) := by exact fun _ _ => rfl)
    (he : ∀ s, s.cfg = c → e' s = freeOr toggle v s (e s) := by exact fun _ _ => rfl) :
    Enter c x o e' (Whole.freeIf c w) :=
  enter_when (at_free h ht (fun _ => rfl) hto hf hfo) h he

/-! ## Groups 6, 7 and 8 -/

/-- Group 8 of the pseudocode. -/
def group8Tail (c : Cfg) : Whole :=
  if c.HAS_DUAL_SPI then
    Whole.fetch c.REG.DSS_STAT 0 1 fun d =>
    Whole.record (fun r => { r with dss := byteAt d 0 }) <|
    Whole.when (fun _ => (byteAt d 0 &&& c.M.DSS_AVAIL) != 0)
      (Whole.store c.REG.DSS_STAT [byteAt d 0 &&& c.M.DSS_AVAIL]) <|
    Whole.ret (.ok .unit)
  else Whole.ret (.ok .unit)

/-- Groups 7 and 8 of the pseudocode. -/
def group7Tail (c : Cfg) (fstat : Byte) : Whole :=
  Whole.when (fun _ => (fstat &&& c.M.F_RXTO) != 0)
    (fun k => Whole.store c.REG.STATUS_LO (le32 (c.M.RX_TO ||| c.M.CIADONE)) <| Whole.freeIf c k) (group8Tail c)

theorem group678_eq (c : Cfg) (fstat : Byte) (st absorbed : Word) :
    Whole.group678 c fstat st absorbed =
      Whole.when (fun _ => (fstat &&& c.M.F_RXERR) != 0 &&
          !(absorbed != 0 && (st &&& c.M.RX_ERR &&& ~~~absorbed) == 0))
        (fun k => Whole.store c.REG.STATUS_LO (le32 (c.M.RX_ERR ||| c.M.CIADONE ||| c.M.RXFR)) <| Whole.freeIf c k)
        (group7Tail c fstat) :=
  rfl

theorem enter_group8 (hx : x.cb = 0) (v : Snap) : Enter c x o (enterGroup8 v) (group8Tail c) := by
  unfold group8Tail
  split
  · next hdual =>
    have hclear (dss : Byte) : At c x o (.pass .g8Clr { v with dss })
        (Whole.store c.REG.DSS_STAT [dss &&& c.M.DSS_AVAIL] (Whole.ret (.ok .unit))) :=
      at_send <| enter_goto <| at_absent (p := .pass .g8Cb { v with dss }) hx <| enter_done (.ok .unit)
    have hnext (dss : Byte) : Enter c x o
        (fun s => (s, if anySet dss c.M.DSS_AVAIL then passGoto .g8Clr { v with dss } else doneOk))
        (Whole.when (fun _ => (dss &&& c.M.DSS_AVAIL) != 0) (Whole.store c.REG.DSS_STAT [dss &&& c.M.DSS_AVAIL])
          (Whole.ret (.ok .unit))) :=
      enter_when (hclear dss) (enter_end (.ok .unit)) fun s _ => apply_ite (Prod.mk s) ..
    exact enter_goto (p := .pass .g8Read v)
      (at_fetch (alarmless_of_cb_zero hx) fun d => enter_record (hnext (byteAt d 0)))
      fun s hs => congrArg (Prod.mk s) (if_pos (hs ▸ hdual))
  · next hsingle => exact enter_done (.ok .unit) fun s hs => congrArg (Prod.mk s) (if_neg (hs ▸ hsingle))

theorem enter_group7 (hx : x.cb = 0) (v : Snap) : Enter c x o (enterGroup7 v) (group7Tail c v.fstat) :=
  have hcallback : At c x o (.pass .g7Cb v) (group8Tail c) := at_absent hx (enter_group8 hx v)
  enter_when (at_send (p := .pass .g7Clr v) <|
      enter_freeIf (toggle := .g7Toggle) (flip := .pass .g7Flip v) (v := v) <| enter_at hcallback)
    (enter_group8 hx v)

theorem enter_group6 (hx : x.cb = 0) (v : Snap) :
    Enter c x o (enterGroup6 v) (Whole.group678 c v.fstat v.st v.absorbed) := by
  have hcallback : At c x o (.pass .g6Cb v) (group7Tail c v.fstat) := at_absent hx (enter_group7 hx v)
  rw [group678_eq]
  exact enter_when (at_send (p := .pass .g6Clr v) <|
      enter_freeIf (toggle := .g6Toggle) (flip := .pass .g6Flip v) (v := v) <| enter_at hcallback)
    (enter_group7 hx v)

/-! ## Group 5 -/

/-- 45_event_classifier.md R324: the reclassification of the pseudocode. -/
def phrErrUpdate (r : EventRec) : EventRec :=
  if r.datalen = 0 ∧ r.flags.noData = false then { r with flags := { r.flags with phrErr := true } } else r

/-- The end of group 5 behind its clears. -/
def group5End (c : Cfg) (fstat : Byte) (st clr : Word) : Whole :=
  Whole.record phrErrUpdate <| Whole.freeIf c <| Whole.group678 c fstat st (clr &&& c.M.RXFCE)

/-- Group 5 from the clear of the low status word on. -/
def group5Clear (c : Cfg) (fstat : Byte) (st clr : Word) : Whole :=
  Whole.store c.REG.STATUS_LO (le32 clr) <|
  Whole.when (fun s => s.ctx.dbl != .off)
    (fun k => fun s => Whole.store c.REG.RDB_STATUS [if s.ctx.dbl = .buffer1 then c.M.DB_CLR <<< 4 else c.M.DB_CLR] k s) <|
  group5End c fstat st clr

theorem enter_dispatchRx (hx : x.cb = 0) (v : Snap) :
    Enter c x o (dispatchRx v) (group5End c v.fstat v.st v.clr) := by
  have hleave : Enter c x o (leaveGroup5 v) (Whole.group678 c v.fstat v.st (v.clr &&& c.M.RXFCE)) :=
    enter_congr (enter_group6 hx { v with absorbed := v.clr &&& c.M.RXFCE }) (by rintro _ rfl; rfl)
  have herr : At c x o (.pass .g5Err v) _ :=
    at_absent hx <| enter_freeIf (toggle := .g5Toggle) (flip := .pass .g5Flip v) (v := v) hleave
  have hok : At c x o (.pass .g5Ok v) _ :=
    at_absent hx <| enter_freeIf (toggle := .g5Toggle) (flip := .pass .g5Flip v) (v := v) hleave
  intro s hs
  by_cases hphr : s.evt.datalen = 0 ∧ s.evt.flags.noData = false
  · have he : dispatchRx v s = _ := if_pos (by simpa [EventRec.isPhrErr] using hphr)
    have hupdate : phrErrUpdate s.evt = s.evt.markPhrErr := if_pos hphr
    simp only [group5End, Whole.record, Whole.upd, hupdate, he]
    exact enter_at herr _ (hs.onlyRecord (onlyRecord_setEvt s.evt.markPhrErr s))
  · have he : dispatchRx v s = _ := if_neg (by simpa [EventRec.isPhrErr] using hphr)
    have hupdate : phrErrUpdate s.evt = s.evt := if_neg hphr
    simp only [group5End, Whole.record, Whole.upd, hupdate, he]
    exact enter_at hok s hs

theorem at_g5Clr (hx : x.cb = 0) (v : Snap) : At c x o (.pass .g5Clr v) (group5Clear c v.fstat v.st v.clr) := by
  have hdispatch := enter_dispatchRx (c := c) (o := o) hx v
  have hsub : At c x o (.pass .g5Sub v) (fun s => Whole.store c.REG.RDB_STATUS
      [if s.ctx.dbl = .buffer1 then c.M.DB_CLR <<< 4 else c.M.DB_CLR] (group5End c v.fstat v.st v.clr) s) := by
    refine at_send hdispatch ?_
    rintro s rfl
    simp [actionOf, passAction, subClear, writeAct]
  exact at_send (enter_when hsub hdispatch)

theorem fetchFinfo_eq (c : Cfg) (k : Half → Whole) :
    Whole.fetchFinfo c k = fun s => Whole.fetch (finfoAddr c s.ctx) 0 2 (fun d => k (unLE16 d)) s := by
  funext s
  unfold Whole.fetchFinfo finfoAddr
  cases s.ctx.dbl <;> rfl

/-- The frame-info word of a reception (45_event_classifier.md R319). -/
theorem at_g5Finfo (hx : x.cb = 0) (v : Snap) :
    At c x o (.pass .g5Finfo v) (Whole.fetchFinfo c fun fi => fun s =>
      Whole.record (fun r => { r with datalen := fi &&& lenmask c s.ctx, rng := (fi &&& c.RNG_MASK) != 0 })
        (group5Clear c v.fstat v.st v.clr) s) := by
  rw [fetchFinfo_eq]
  refine at_fetch (alarmless_of_cb_zero hx) fun d => ?_
  exact enter_upd (f := fun s => setEvt (s.evt.withFrameInfo c s.ctx (unLE16 d)) s) (fun s => onlyRecord_setEvt _ s)
    (enter_at (at_g5Clr hx { v with fi := unLE16 d }))

/-- Group 5 once its gate is passed and the flags are set (45_event_classifier.md R316 to R319). -/
def acceptRx (v : Snap) (s : State) : State × Next :=
  if isNoData s.cfg s.ctx v then
    (setEvt s.evt.markNoData s, passGoto .g5Clr { v with clr := s.cfg.M.ALL_RX_GOOD ||| (v.st &&& s.cfg.M.RXFCE) })
  else
    (s, passGoto (if lengthReads s.cfg s.ctx v then .g5Finfo else .g5Clr) { v with clr := s.cfg.M.ALL_RX_GOOD })

/-- The same of the pseudocode. -/
def group5Accept (c : Cfg) (fstat : Byte) (st : Word) (benign : Bool) : Whole := fun s =>
  if (s.ctx.stsMode &&& c.STS_ND_MASK) == c.STS_ND_MASK || benign then
    Whole.record (fun r => { r with datalen := 0, flags := { r.flags with noData := true } })
      (group5Clear c fstat st (c.M.ALL_RX_GOOD ||| (st &&& c.M.RXFCE))) s
  else if st &&& c.M.RXFCG ≠ 0 ∨ (st &&& c.M.RXFR ≠ 0 ∧ s.ctx.fceDis = true) then
    Whole.fetchFinfo c (fun fi => fun s =>
      Whole.record (fun r => { r with datalen := fi &&& lenmask c s.ctx, rng := (fi &&& c.RNG_MASK) != 0 })
        (group5Clear c fstat st c.M.ALL_RX_GOOD) s) s
  else group5Clear c fstat st c.M.ALL_RX_GOOD s

/-- The flags of group 5 are set, never cleared (45_event_classifier.md R316). -/
def flagsUpdate (c : Cfg) (st : Word) (r : EventRec) : EventRec :=
  { r with flags := r.flags.accumulate c st }

/-- The three tests of the pseudocode set the flags one after the other. -/
theorem flagsUpdate_eq (c : Cfg) (st : Word) (w : Whole) :
    Whole.record (flagsUpdate c st) w =
      (Whole.record (fun r => if st &&& c.M.CIAERR ≠ 0 then { r with flags := { r.flags with ciaErr := true } } else r) <|
        Whole.record (fun r => if st &&& c.M.CIADONE ≠ 0 then { r with flags := { r.flags with ciaDone := true } } else r) <|
        Whole.record (fun r => if st &&& c.M.CPERR ≠ 0 then { r with flags := { r.flags with stsErr := true } } else r) w) := by
  have hany (m : Word) : anySet st m = !decide (st &&& m = 0#32) := rfl
  funext s
  by_cases hciaErr : st &&& c.M.CIAERR = 0#32 <;> by_cases hciaDone : st &&& c.M.CIADONE = 0#32 <;>
    by_cases hstsErr : st &&& c.M.CPERR = 0#32 <;>
    simp [Whole.record, Whole.upd, flagsUpdate, RecFlags.accumulate, hany, hciaErr, hciaDone, hstsErr]

theorem group5_eq (c : Cfg) (fstat : Byte) (st : Word) (benign : Bool) :
    Whole.group5 c st benign (Whole.group678 c fstat st) =
      Whole.record (flagsUpdate c st) (group5Accept c fstat st benign) := by
  rw [flagsUpdate_eq]
  refine congrArg (Whole.record _) (congrArg (Whole.record _) (congrArg (Whole.record _) (funext fun s => ?_)))
  unfold group5Accept group5Clear group5End phrErrUpdate
  cases (s.ctx.stsMode &&& c.STS_ND_MASK) == c.STS_ND_MASK || benign <;>
    simp only [Bool.false_eq_true, if_false, if_true]

theorem lengthReads_iff (c : Cfg) (y : Ctx) (v : Snap) :
    lengthReads c y v = true ↔ v.st &&& c.M.RXFCG ≠ 0 ∨ (v.st &&& c.M.RXFR ≠ 0 ∧ y.fceDis = true) := by
  simp [lengthReads, anySet]

theorem enter_acceptRx (hx : x.cb = 0) (v : Snap) :
    Enter c x o (acceptRx v) (group5Accept c v.fstat v.st v.benign) := by
  rintro s hs
  obtain rfl := hs.cfg
  by_cases hno : isNoData s.cfg s.ctx v = true
  · have hw : group5Accept s.cfg v.fstat v.st v.benign s = _ := if_pos hno
    have he : acceptRx v s = _ := if_pos hno
    rw [hw, he]
    exact enter_at (at_g5Clr hx { v with clr := s.cfg.M.ALL_RX_GOOD ||| (v.st &&& s.cfg.M.RXFCE) }) _
      (hs.onlyRecord (onlyRecord_setEvt s.evt.markNoData s))
  have hw : group5Accept s.cfg v.fstat v.st v.benign s = _ := if_neg hno
  have he : acceptRx v s = _ := if_neg hno
  rw [hw, he]
  by_cases hlen : lengthReads s.cfg s.ctx v = true
  · rw [if_pos hlen, if_pos ((lengthReads_iff ..).1 hlen)]
    exact enter_at (at_g5Finfo hx { v with clr := s.cfg.M.ALL_RX_GOOD }) s hs
  · rw [if_neg hlen, if_neg (mt (lengthReads_iff ..).2 hlen)]
    exact enter_at (at_g5Clr hx { v with clr := s.cfg.M.ALL_RX_GOOD }) s hs

/-- Groups 5 to 8 of the pseudocode. -/
def group5Tail (c : Cfg) (fstat : Byte) (st : Word) (benign : Bool) : Whole :=
  if fstat &&& c.M.F_RXOK ≠ 0 ∨ benign = true then Whole.group5 c st benign (Whole.group678 c fstat st)
  else Whole.group678 c fstat st 0

theorem rxQualifies_iff (c : Cfg) (v : Snap) :
    rxQualifies c v = true ↔ v.fstat &&& c.M.F_RXOK ≠ 0 ∨ v.benign = true := by
  simp [rxQualifies, anySet]

theorem enter_group5 (hx : x.cb = 0) {v : Snap} (hv : v.absorbed = 0) :
    Enter c x o (enterGroup5 v) (group5Tail c v.fstat v.st v.benign) := by
  unfold group5Tail
  split
  · next hrx =>
    rw [group5_eq]
    refine enter_record (enter_acceptRx hx v) ?_
    rintro s rfl
    exact if_pos ((rxQualifies_iff ..).2 hrx)
  · next hrx =>
    rw [← hv]
    refine enter_congr (enter_group6 hx v) ?_
    rintro s rfl
    exact if_neg (mt (rxQualifies_iff ..).1 hrx)

/-- The benign test (45_event_classifier.md R314). -/
theorem enter_benign (hx : x.cb = 0) {v : Snap} (hv : v.absorbed = 0) :
    Enter c x o (enterBenign v) (Whole.benign c v.st (group5Tail c v.fstat v.st)) := by
  have hread : At c x o (.pass .g5Benign v) (Whole.fetchFinfo c fun fi => fun s =>
      group5Tail c v.fstat v.st ((fi &&& lenmask c s.ctx) == 0) s) := by
    rw [fetchFinfo_eq]
    refine at_fetch (alarmless_of_cb_zero hx) fun d s hs => ?_
    obtain rfl := hs.cfg
    exact enter_group5 (v := { v with fi := unLE16 d, benign := (unLE16 d &&& lenmask s.cfg s.ctx) == 0 }) hx hv s hs
  intro s hs
  obtain rfl := hs.cfg
  have hiff : benignReads s.cfg s.ctx v = true ↔ v.st &&& s.cfg.M.RXFCE ≠ 0 ∧ s.ctx.zeroLenOk = true := by
    simp [benignReads, anySet]
  by_cases hb : benignReads s.cfg s.ctx v = true
  · have hw : Whole.benign s.cfg v.st (group5Tail s.cfg v.fstat v.st) s = _ := if_pos (hiff.1 hb)
    have he : enterBenign v s = _ := if_pos hb
    rw [hw, he]
    exact enter_at hread s hs
  · have hw : Whole.benign s.cfg v.st (group5Tail s.cfg v.fstat v.st) s = _ := if_neg (mt hiff.2 hb)
    have he : enterBenign v s = _ := if_neg hb
    rw [hw, he]
    exact enter_group5 (v := { v with benign := false }) hx hv s hs

/-! ## Groups 2, 3 and 4 -/

/-- The pass from group 3 on. -/
def group3Tail (c : Cfg) (fstat : Byte) (st : Word) : Whole :=
  Whole.group34 c fstat <| Whole.benign c st <| group5Tail c fstat st

theorem enter_group4 (hx : x.cb = 0) {v : Snap} (hv : v.absorbed = 0) :
    Enter c x o (enterGroup4 v) (Whole.when (fun _ => (v.fstat &&& c.M.F_SYSEVT) != 0)
      (Whole.store c.REG.STATUS_LO (le32 c.M.SYS_EVT_CLR)) (Whole.benign c v.st (group5Tail c v.fstat v.st))) :=
  enter_when (at_absent (p := .pass .g4Cb v) hx <| enter_goto <| at_send (p := .pass .g4Clr v) <| enter_benign hx hv)
    (enter_benign hx hv)

theorem enter_group3 (hx : x.cb = 0) {v : Snap} (hv : v.absorbed = 0) :
    Enter c x o (enterGroup3 v) (group3Tail c v.fstat v.st) :=
  enter_when
    (at_send (p := .pass .g3Pll v) <| enter_goto <| at_absent (p := .pass .g3Cb v) hx <| enter_goto <|
      at_send (p := .pass .g3Clr v) <| enter_group4 hx hv)
    (enter_group4 hx hv)

theorem enter_group2b (hx : x.cb = 0) {v : Snap} (hv : v.absorbed = 0) :
    Enter c x o (enterGroup2b v) (Whole.when (fun _ => (v.hi &&& c.M.HI_CMD_ERR) != 0)
      (fun k => Whole.storeHi c c.M.HI_CMD_ERR <| Whole.record (fun r => { r with cause := .cmdErr }) k)
      (group3Tail c v.fstat v.st)) :=
  have hcallback : At c x o (.pass .g2bCb v) (group3Tail c v.fstat v.st) := at_absent hx (enter_group3 hx hv)
  enter_when (at_send (p := .pass .g2bHi v) <| enter_record <| enter_at hcallback)
    (enter_group3 hx hv)

/-- Sub-causes 2a and 2b of the pseudocode. -/
def group2Tail (c : Cfg) (fstat : Byte) (st hi : Word) : Whole :=
  Whole.when (fun _ => (st &&& c.M.SPICRCE) != 0 || (hi &&& c.M.HI_SPI_ERR) != 0)
    (fun k => Whole.store c.REG.STATUS_LO (le32 c.M.SPICRCE) <|
      Whole.storeHi c c.M.HI_SPI_ERR <| Whole.record (fun r => { r with cause := .spiErr }) k) <|
  Whole.when (fun _ => (hi &&& c.M.HI_CMD_ERR) != 0)
    (fun k => Whole.storeHi c c.M.HI_CMD_ERR <| Whole.record (fun r => { r with cause := .cmdErr }) k) <|
  group3Tail c fstat st

theorem enter_group2a (hx : x.cb = 0) {v : Snap} (hv : v.absorbed = 0) :
    Enter c x o (enterGroup2a v) (group2Tail c v.fstat v.st v.hi) :=
  have hcallback : At c x o (.pass .g2aCb v) _ := at_absent hx (enter_group2b hx hv)
  enter_when
    (at_send (p := .pass .g2aLo v) <| enter_goto <| at_send (p := .pass .g2aHi v) <| enter_record <|
      enter_at hcallback)
    (enter_group2b hx hv)

theorem fetchHi_eq (c : Cfg) (k : Word → Whole) :
    Whole.fetchHi c k = Whole.fetch c.REG.STATUS_HI 0 (hiLen c) fun d => k (hiOf c d) := by
  unfold Whole.fetchHi hiLen hiOf
  split <;> rfl

theorem enter_group2 (hx : x.cb = 0) {v : Snap} (hv : v.absorbed = 0) :
    Enter c x o (enterGroup2 v) (Whole.group2 c v.fstat v.st (group3Tail c v.fstat v.st)) := by
  unfold Whole.group2
  split
  · next hpanic =>
    rw [fetchHi_eq]
    have hread : At c x o (.pass .g2Hi v) (Whole.fetch c.REG.STATUS_HI 0 (hiLen c) fun d =>
        Whole.record (fun r => { r with statusHi := hiOf c d }) (group2Tail c v.fstat v.st (hiOf c d))) := by
      exact at_fetch (alarmless_of_cb_zero hx) fun d =>
        enter_record (enter_group2a (v := { v with hi := hiOf c d }) hx hv)
    refine enter_goto hread ?_
    rintro s rfl
    exact if_pos (bne_iff_ne.2 hpanic)
  · next hcalm =>
    refine enter_congr (enter_group3 hx hv) ?_
    rintro s rfl
    exact if_neg (mt bne_iff_ne.1 hcalm)

/-! ## The capture -/

theorem mergeBit_eq (sdb m : Byte) (bit st : Word) :
    mergeBit sdb m bit st = if sdb &&& m ≠ 0 then st ||| bit else st := by
  simp [mergeBit, anySet]

/-- The pass from the end of its capture on. -/
def classify (c : Cfg) (fstat : Byte) (st : Word) : Whole :=
  Whole.record (fun r => { r with status := st }) <| Whole.group2 c fstat st <| group3Tail c fstat st

theorem pass_eq (c : Cfg) : Whole.pass c = Whole.capture c (classify c) :=
  rfl

theorem enter_endCapture (hx : x.cb = 0) (v : Snap) : Enter c x o (endCapture v) (classify c v.fstat v.st) :=
  enter_record (enter_group2 (v := { v with absorbed := 0 }) hx rfl)

theorem at_capSub (hx : x.cb = 0) (v : Snap) :
    At c x o (.pass .capSub v) (Whole.fetch c.REG.RDB_STATUS 0 1 fun raw => fun s =>
      classify c v.fstat (mergeSub c (subHalf s.ctx.dbl (byteAt raw 0)) v.st) s) := by
  refine at_fetch (alarmless_of_cb_zero hx) fun d s hs => ?_
  obtain rfl := hs.cfg
  exact enter_endCapture hx { v with sdb := subHalf s.ctx.dbl (byteAt d 0),
                                     st := mergeSub s.cfg (subHalf s.ctx.dbl (byteAt d 0)) v.st } s hs

/-- The capture of the pseudocode, its merge by the model's names. -/
theorem capture_eq (c : Cfg) (k : Byte → Word → Whole) :
    Whole.capture c k =
      Whole.fetch c.REG.FSTAT 0 1 fun f =>
      Whole.fetch c.REG.STATUS_LO 0 4 fun d =>
      Whole.when (fun s => s.ctx.dbl.active)
        (fun _ => Whole.fetch c.REG.RDB_STATUS 0 1 fun raw => fun s =>
          k (byteAt f 0) (mergeSub c (subHalf s.ctx.dbl (byteAt raw 0)) (unLE32 d)) s)
        (k (byteAt f 0) (unLE32 d)) := by
  have hmerge (dbl : Dbl) (raw : Byte) (st : Word) : mergeSub c (subHalf dbl raw) st =
      let sdb := if dbl = .buffer1 then raw >>> 4 else raw &&& 0x0F#8
      let st1 := if sdb &&& c.M.DB_FCG ≠ 0 then st ||| c.M.RXFCG else st
      let st2 := if sdb &&& c.M.DB_FR ≠ 0 then st1 ||| c.M.RXFR else st1
      if sdb &&& c.M.DB_CIADONE ≠ 0 then st2 ||| c.M.CIADONE else st2 := by
    simp only [mergeSub, mergeBit_eq, subHalf, beq_iff_eq]
  refine congrArg (Whole.fetch _ _ _) (funext fun f => congrArg (Whole.fetch _ _ _) (funext fun d => funext fun s => ?_))
  by_cases hoff : s.ctx.dbl = .off
  · simp [Whole.when, Dbl.active, hoff]
  · simp [Whole.when, Dbl.active, hoff, hmerge]

/-- 45_event_classifier.md R300: a pass of the owner `o`, from its first action to its end. -/
theorem at_pass (hx : x.cb = 0) : At c x o (.pass .capFstat {}) (Whole.pass c) := by
  rw [pass_eq, capture_eq]
  refine at_fetch (alarmless_of_cb_zero hx) fun f => enter_goto <|
    at_fetch (p := .pass .capStatus { fstat := byteAt f 0 }) (alarmless_of_cb_zero hx) fun d => ?_
  exact enter_when (at_capSub hx { fstat := byteAt f 0, st := unLE32 d })
    (enter_endCapture hx { fstat := byteAt f 0, st := unLE32 d })

end

end Sys2Proof.Proofs
end

section
/-! SUPPORT. What the pseudocode of the operations of several actions keeps: a property that every action it may make
keeps, it keeps to its end; and of the properties, the byte outside the registers named, and the continuation below. -/

namespace Sys2Proof.Proofs

open Sys2Proof.Machine Sys2Proof.Laws

/-! ## Properties that actions keep -/

/-- The property `Q` is kept by every action but writes and modifies, and by those that store only to places of
`allowed`, which are an address, an offset and a number of bytes. -/
structure Robust (allowed : Word → Half → Nat → Prop) (Q : State → Prop) : Prop where
  read : ∀ addr offset n s, Q s → Q (busRead (accessHdr .read addr offset) n s).2
  fast : ∀ code s, Q s → Q (busWrite (hdrFast code) [] s).2
  write : ∀ addr bytes s, allowed addr 0 bytes.length → Q s → Q (busWrite (accessHdr .write addr 0) bytes s).2
  modify : ∀ (k : Kind) addr offset (ands ors : List Byte) s, k.isModify = true → ands.length = k.modLen / 2 →
    ors.length = k.modLen / 2 → allowed addr offset (k.modLen / 2) → Q s →
    Q (busWrite (accessHdr k addr offset) (ands ++ ors) s).2
  record : ∀ s t, OnlyRecord s t → Q s → Q t
  mask : ∀ s, Q s → Q (maskOff s)
  unmask : ∀ tok s, Q s → Q (maskOn tok s)

/-- The chip expects what the block sends, and the byte at `k` is `v`. -/
structure HoldsByte (c : Cfg) (k : Nat) (v : Byte) (s : State) : Prop where
  cfg : s.cfg = c
  agree : CrcAgree s
  byte : readByte s.env.chip.mem k = v

theorem HoldsByte.sameBlock {c : Cfg} {k : Nat} {v : Byte} {s t : State} (h : HoldsByte c k v s) (hb : SameBlock s t)
    (hm : readByte t.env.chip.mem k = readByte s.env.chip.mem k) : HoldsByte c k v t := by
  refine ⟨hb.cfg.trans h.cfg, ?_, hm.trans h.byte⟩
  have hg := h.agree
  unfold CrcAgree at hg ⊢
  rw [hb.crcOn, hb.ctx, hg]

/-- A write by the codec's header leaves the bytes outside its place. -/
theorem busWrite_other {s : State} (hg : CrcAgree s) {addr : Word} {offset : Half} {bytes : List Byte} {k : Nat}
    (hk : k ∉ accessKeys addr offset bytes.length) :
    readByte (busWrite (accessHdr .write addr offset) bytes s).2.env.chip.mem k = readByte s.env.chip.mem k := by
  obtain ⟨ext, ha⟩ := announces_headerOf s.cfg .write (fileOf (combined addr offset)) (subOf (combined addr offset)) nofun
  rw [accessHdr, busWrite_mem_write _ bytes s hg ext _ _ ha]
  split
  · exact readByte_storeBytes_other _ _ _ _ k (by simpa using not_mem_cellKeys hk)
  · rfl

/-- A modify by the codec's header leaves the bytes outside its place. -/
theorem busWrite_modify_other {s : State} (hg : CrcAgree s) {m : Kind} {addr : Word} {offset : Half}
    {ands ors : List Byte} {k : Nat} (hm : m.isModify = true) (ha : ands.length = m.modLen / 2)
    (ho : ors.length = m.modLen / 2) (hk : k ∉ accessKeys addr offset (m.modLen / 2)) :
    readByte (busWrite (accessHdr m addr offset) (ands ++ ors) s).2.env.chip.mem k = readByte s.env.chip.mem k := by
  obtain ⟨ext, hann⟩ := announces_headerOf s.cfg m (fileOf (combined addr offset)) (subOf (combined addr offset))
    (by rintro rfl; cases hm)
  rw [accessHdr, busWrite_mem_modify _ _ s hg m ext _ _ hann hm (length_masks ha ho), ← ha, List.take_left, List.drop_left]
  split
  · refine readByte_storeBytes_other _ _ _ _ k ?_
    rw [modifiedBytes_length _ _ _ _ _ (ha.trans ho.symm), ha]
    exact not_mem_cellKeys hk
  · rfl

/-- Only writes and modifies of a place that contains it change a byte (20_memory.md R80 to R82). -/
theorem robust_holdsByte (c : Cfg) (k : Nat) (v : Byte) :
    Robust (fun addr offset n => k ∉ accessKeys addr offset n) (HoldsByte c k v) where
  read addr offset n s h := h.sameBlock (sameBlock_busRead _ n s) (by rw [busRead_access_mem])
  fast code s h := h.sameBlock (sameBlock_busWrite _ _ s) (busWrite_fast_keeps (.inl h.agree) code)
  write addr bytes s hk h := h.sameBlock (sameBlock_busWrite _ _ s) (busWrite_other h.agree hk)
  modify m addr offset ands ors s hm ha ho hk h :=
    h.sameBlock (sameBlock_busWrite _ _ s) (busWrite_modify_other h.agree hm ha ho hk)
  record s t ht h := by
    rw [ht]
    exact ⟨h.cfg, h.agree, h.byte⟩
  mask s h := ⟨h.cfg, h.agree, h.byte⟩
  unmask tok s h := ⟨h.cfg, h.agree, h.byte⟩

/-- No action of an operation touches the continuation below it. -/
theorem robust_stack (st : List Entry) : Robust (fun _ _ _ => True) (fun s => s.stack = st) where
  read _ _ _ _ h := h
  fast _ _ h := h
  write _ _ _ _ h := h
  modify _ _ _ _ _ _ _ _ _ _ h := h
  record s t ht h := by
    rw [ht]
    exact h
  mask _ h := h
  unmask _ _ h := h

theorem length_hiBytes (c : Cfg) (m : Word) : (hiBytes c m).length = hiLen c := by
  unfold hiBytes hiLen
  split <;> rfl

/-! ## Pseudocode that keeps a property -/

/-- What holds before the pseudocode `w` holds after it. -/
def Keeps (Q : State → Prop) (w : Whole) : Prop :=
  ∀ s, Q s → Q (w s).2

section
variable {allowed : Word → Half → Nat → Prop} {Q : State → Prop} {w : Whole}

theorem keeps_ret (r : Result) : Keeps Q (Whole.ret r) :=
  fun _ h => h

/-- A test of the state between two actions. -/
theorem keeps_of_at {f : State → Whole} (h : ∀ s, Keeps Q (f s)) : Keeps Q (fun s => f s s) :=
  fun s => h s s

theorem keeps_ite {P : Prop} [Decidable P] {v : Whole} (hv : Keeps Q v) (hw : Keeps Q w) :
    Keeps Q (if P then v else w) := by
  split
  · exact hv
  · exact hw

/-- A branch on the state between two actions. -/
theorem keeps_test {P : State → Prop} [∀ s, Decidable (P s)] {v : Whole} (hv : Keeps Q v) (hw : Keeps Q w) :
    Keeps Q (fun s => if P s then v s else w s) := by
  intro s h
  dsimp only
  split
  · exact hv s h
  · exact hw s h

theorem keeps_when {b : State → Bool} {body : Whole → Whole} (hb : Keeps Q (body w)) (hw : Keeps Q w) :
    Keeps Q (Whole.when b body w) := by
  intro s h
  unfold Whole.when
  split
  · exact hb s h
  · exact hw s h

theorem keeps_send {hdr body : List Byte} (hb : ∀ s, Q s → Q (busWrite hdr body s).2) (hw : Keeps Q w) :
    Keeps Q (Whole.send hdr body w) := by
  intro s h
  have h1 := hb s h
  unfold Whole.send
  rcases hy : busWrite hdr body s with ⟨_ | _, s'⟩ <;> rw [hy] at h1
  · exact h1
  · exact hw s' h1

variable (hQ : Robust allowed Q)
include hQ

theorem keeps_fetch {addr : Word} {offset : Half} {n : Nat} {k : List Byte → Whole} (hk : ∀ d, Keeps Q (k d)) :
    Keeps Q (Whole.fetch addr offset n k) := by
  intro s h
  have h1 := hQ.read addr offset n s h
  unfold Whole.fetch Whole.fetchHdr
  rcases hy : busRead (accessHdr .read addr offset) n s with ⟨_ | d, s1⟩ <;> rw [hy] at h1
  · exact h1
  dsimp only
  split
  · have h2 := hQ.read s.cfg.REG.CRC_ECHO 0 1 s1 h1
    rcases hz : busRead (accessHdr .read s.cfg.REG.CRC_ECHO 0) 1 s1 with ⟨_ | e, s2⟩ <;> rw [hz] at h2
    · exact h2
    · exact hk d s2 h2
  · exact hk d s1 h1

theorem keeps_fast {code : File} (hw : Keeps Q w) : Keeps Q (Whole.fast code w) :=
  keeps_send (hQ.fast code) hw

theorem keeps_store {addr : Word} {bytes : List Byte} (ha : allowed addr 0 bytes.length) (hw : Keeps Q w) :
    Keeps Q (Whole.store addr bytes w) :=
  keeps_send (fun s => hQ.write addr bytes s ha) hw

theorem keeps_modify {k : Kind} {addr : Word} {offset : Half} {ands ors : List Byte} (hm : k.isModify = true)
    (ha : ands.length = k.modLen / 2) (ho : ors.length = k.modLen / 2) (hk : allowed addr offset (k.modLen / 2))
    (hw : Keeps Q w) : Keeps Q (Whole.send (accessHdr k addr offset) (ands ++ ors) w) :=
  keeps_send (fun s => hQ.modify k addr offset ands ors s hm ha ho hk) hw

theorem keeps_upd {f : State → State} (hf : ∀ s, OnlyRecord s (f s)) (hw : Keeps Q w) : Keeps Q (Whole.upd f w) :=
  fun s h => hw (f s) (hQ.record s (f s) (hf s) h)

theorem keeps_record {f : EventRec → EventRec} (hw : Keeps Q w) : Keeps Q (Whole.record f w) :=
  keeps_upd hQ (fun _ => rfl) hw

theorem keeps_guarded {hdr body : List Byte} (hb : ∀ s, Q s → Q (busWrite hdr body s).2) :
    Keeps Q (Whole.guarded hdr body) :=
  fun s h => hQ.unmask s.env.platMask _ (hb _ (hQ.mask s h))

/-! ## The starts and `force_trx_off` -/

theorem keeps_antCorrect {c : Cfg} {antreg : Word} (ha : allowed c.REG.DX_TIME 0 4) (hw : Keeps Q w) :
    Keeps Q (Whole.antCorrect c antreg w) :=
  keeps_fetch hQ fun _ => keeps_fetch hQ fun _ => keeps_store hQ ha hw

theorem keeps_correct {c : Cfg} {flv : Flavour} (ha : allowed c.REG.DX_TIME 0 4) (hw : Keeps Q w) :
    Keeps Q (Whole.correct c flv w) :=
  keeps_ite (keeps_antCorrect hQ ha hw) (keeps_ite (keeps_antCorrect hQ ha hw) hw)

theorem keeps_lateTail (c : Cfg) (st : Start) : Keeps Q (lateTail c st) :=
  have hrx := keeps_when (b := fun _ => !st.opt) (keeps_fast hQ (code := c.FC.RX) (keeps_ret (.err .late)))
    (keeps_ret (.err .late))
  keeps_ite (keeps_fast hQ (keeps_ret _)) (keeps_when (keeps_fast hQ hrx) hrx)

theorem keeps_commandTail (c : Cfg) (st : Start) : Keeps Q (commandTail c st) :=
  keeps_fast hQ <| keeps_ite
    (keeps_fetch hQ fun _ => keeps_ite (keeps_lateTail hQ c st) (keeps_ret _))
    (keeps_ret _)

theorem keeps_wholeStartTx {c : Cfg} (flv : Flavour) (w4r : Bool) (ha : allowed c.REG.DX_TIME 0 4) :
    Keeps Q (Whole.startTx c flv w4r) := by
  rw [startTx_eq]
  exact keeps_correct hQ ha (keeps_commandTail hQ c _)

theorem keeps_wholeStartRx {c : Cfg} {flv : Flavour} (iol : Bool) (hflv : flv ≠ .cca) (ha : allowed c.REG.DX_TIME 0 4)
    (hp : allowed c.REG.PLL_COMMON 0 2) : Keeps Q (Whole.startRx c flv iol) := by
  rw [startRx_eq c iol hflv]
  exact keeps_store hQ hp (keeps_correct hQ ha (keeps_commandTail hQ c _))

theorem keeps_wholeForceTrxOff (c : Cfg) : Keeps Q (Whole.forceTrxOff c) :=
  keeps_fetch hQ fun _ => keeps_ite (keeps_ret _) (keeps_guarded hQ (hQ.fast c.FC.TXRXOFF))

/-! ## The double-buffer operations and `irq_src_modify` -/

theorem keeps_free (c : Cfg) (hw : Keeps Q w) : Keeps Q (Whole.free c w) :=
  keeps_fast hQ <| keeps_upd hQ (fun s => onlyRecord_setDbl _ s) hw

theorem keeps_wholeDblDisable {c : Cfg} (ha : allowed c.REG.SYS_CFG 0 4) : Keeps Q (Whole.dblDisable c) :=
  keeps_modify hQ rfl (length_le32 _) (length_le32 _) ha <| keeps_upd hQ (fun s => onlyRecord_setDbl _ s) <| keeps_ret _

theorem keeps_wholeDblEnable {c : Cfg} (auto : Bool) (ha : allowed c.REG.SYS_CFG 0 4) (hi : allowed c.REG.IND_ADDR 0 4)
    (ho : allowed c.REG.IND_OFFSET 0 4) (hd : allowed c.REG.DIAG_CFG c.DIAG_BYTE_OFF 1) :
    Keeps Q (Whole.dblEnable c auto) := by
  have hrest := keeps_upd hQ (fun s => onlyRecord_setDbl .buffer0 s) <|
    keeps_store hQ (bytes := le32 (c.BUF1_FINFO_TARGET >>> 16)) hi <|
    keeps_store hQ (bytes := le32 (c.BUF1_FINFO_TARGET &&& 0x0000FFFF#32)) ho <|
    keeps_modify hQ (k := .mod8) (ands := [~~~c.M.MINDIAG]) (ors := [0x00#8]) rfl rfl rfl hd (keeps_ret (.ok .unit))
  cases auto <;> exact keeps_modify hQ rfl (length_le32 _) (length_le32 _) ha hrest

theorem keeps_irqSrcModify {c : Cfg} (and or : Word) (ha : allowed c.REG.IRQ_EN_LO 0 4) :
    Keeps Q (Whole.guarded (accessHdr .mod32 c.REG.IRQ_EN_LO 0) (le32 and ++ le32 or)) :=
  keeps_guarded hQ fun s => hQ.modify .mod32 _ _ _ _ s rfl (length_le32 _) (length_le32 _) ha

/-! ## The classifier pass -/

theorem keeps_freeIf (c : Cfg) (hw : Keeps Q w) : Keeps Q (Whole.freeIf c w) :=
  keeps_when (keeps_free hQ c hw) hw

theorem keeps_fetchFinfo (c : Cfg) {k : Half → Whole} (hk : ∀ fi, Keeps Q (k fi)) : Keeps Q (Whole.fetchFinfo c k) := by
  rw [fetchFinfo_eq]
  exact keeps_of_at fun _ => keeps_fetch hQ fun _ => hk _

theorem keeps_group8 {c : Cfg} (hd : allowed c.REG.DSS_STAT 0 1) : Keeps Q (group8Tail c) :=
  keeps_ite (keeps_fetch hQ fun _ => keeps_record hQ <| keeps_when (keeps_store hQ hd (keeps_ret _)) (keeps_ret _))
    (keeps_ret _)

theorem keeps_group678 {c : Cfg} (fstat : Byte) (st absorbed : Word) (hlo : allowed c.REG.STATUS_LO 0 4)
    (hd : allowed c.REG.DSS_STAT 0 1) : Keeps Q (Whole.group678 c fstat st absorbed) := by
  have h8 := keeps_group8 hQ hd
  have h7 : Keeps Q (group7Tail c fstat) := keeps_when (keeps_store hQ hlo (keeps_freeIf hQ c h8)) h8
  rw [group678_eq]
  exact keeps_when (keeps_store hQ hlo (keeps_freeIf hQ c h7)) h7

theorem keeps_group5Tail {c : Cfg} (fstat : Byte) (st : Word) (benign : Bool) (hlo : allowed c.REG.STATUS_LO 0 4)
    (hs : allowed c.REG.RDB_STATUS 0 1) (hd : allowed c.REG.DSS_STAT 0 1) : Keeps Q (group5Tail c fstat st benign) := by
  have h678 (absorbed : Word) := keeps_group678 hQ fstat st absorbed hlo hd
  have hclear (clr : Word) : Keeps Q (group5Clear c fstat st clr) :=
    have hend : Keeps Q (group5End c fstat st clr) := keeps_record hQ (keeps_freeIf hQ c (h678 _))
    keeps_store hQ hlo (keeps_when (keeps_of_at fun _ => keeps_store hQ hs hend) hend)
  have haccept : Keeps Q (group5Accept c fstat st benign) :=
    keeps_test (keeps_record hQ (hclear _)) <| keeps_test
      (keeps_fetchFinfo hQ c fun _ => keeps_of_at fun _ => keeps_record hQ (hclear _)) (hclear _)
  unfold group5Tail
  rw [group5_eq]
  exact keeps_ite (keeps_record hQ haccept) (h678 0)

theorem keeps_group3Tail {c : Cfg} (fstat : Byte) (st : Word) (hlo : allowed c.REG.STATUS_LO 0 4)
    (hs : allowed c.REG.RDB_STATUS 0 1) (hd : allowed c.REG.DSS_STAT 0 1) (hp : allowed c.REG.PLL_COMMON 0 2) :
    Keeps Q (group3Tail c fstat st) :=
  have h5 (benign : Bool) := keeps_group5Tail hQ fstat st benign hlo hs hd
  have hbenign : Keeps Q (Whole.benign c st (group5Tail c fstat st)) :=
    keeps_test (keeps_fetchFinfo hQ c fun _ => keeps_of_at fun _ => h5 _) (h5 false)
  have h4 := keeps_when (keeps_store hQ hlo hbenign) hbenign
  keeps_when (keeps_store hQ hp (keeps_store hQ hlo h4)) h4

theorem keeps_group2 {c : Cfg} (fstat : Byte) (st : Word) (hlo : allowed c.REG.STATUS_LO 0 4)
    (hhi : allowed c.REG.STATUS_HI 0 (hiLen c)) (hw : Keeps Q w) : Keeps Q (Whole.group2 c fstat st w) := by
  have hstoreHi {m : Word} {v : Whole} (hv : Keeps Q v) : Keeps Q (Whole.storeHi c m v) := by
    refine keeps_store hQ ?_ hv
    rw [← length_hiBytes c m] at hhi
    exact hhi
  have h2b (hi : Word) : Keeps Q (Whole.when (fun _ => (hi &&& c.M.HI_CMD_ERR) != 0)
      (fun k => Whole.storeHi c c.M.HI_CMD_ERR <| Whole.record (fun r => { r with cause := .cmdErr }) k) w) :=
    keeps_when (hstoreHi (keeps_record hQ hw)) hw
  unfold Whole.group2
  rw [fetchHi_eq]
  exact keeps_ite (keeps_fetch hQ fun _ => keeps_record hQ <|
    keeps_when (keeps_store hQ hlo <| hstoreHi <| keeps_record hQ (h2b _)) (h2b _)) hw

theorem keeps_wholePass {c : Cfg} (hlo : allowed c.REG.STATUS_LO 0 4) (hhi : allowed c.REG.STATUS_HI 0 (hiLen c))
    (hs : allowed c.REG.RDB_STATUS 0 1) (hd : allowed c.REG.DSS_STAT 0 1) (hp : allowed c.REG.PLL_COMMON 0 2) :
    Keeps Q (Whole.pass c) := by
  have hclassify (fstat : Byte) (st : Word) : Keeps Q (classify c fstat st) :=
    keeps_record hQ (keeps_group2 hQ fstat st hlo hhi (keeps_group3Tail hQ fstat st hlo hs hd hp))
  rw [pass_eq, capture_eq]
  exact keeps_fetch hQ fun _ => keeps_fetch hQ fun _ =>
    keeps_when (keeps_fetch hQ fun _ => keeps_of_at fun _ => hclassify _ _) (hclassify _ _)

end

/-! ## Passes -/

/-- A pass leaves the continuation below it (60_exceptions.md R384). -/
theorem wholePass_stack (c : Cfg) (s : State) : (Whole.pass c s).2.stack = s.stack :=
  keeps_wholePass (robust_stack s.stack) trivial trivial trivial trivial trivial s rfl

/-- A pass that starts runs its pseudocode to its end, whoever asked for it. -/
theorem endsAs_startPass {s : State} (o : Owner) (hq : Quiet s) (hcb : s.ctx.cb = 0) :
    EndsAs o (startPass o s) (Whole.pass s.cfg (enterPass s)) :=
  at_pass hcb (enterPass s) ⟨rfl, rfl, hq.cfg, hq.halted, hq.sched, hq.served⟩

theorem runsTo_isrPass {s : State} (hs : Undisturbed s) (hcb : s.ctx.cb = 0) (hin : s.seq.inPass = false)
    (hpass : hasPass s.stack = false) (hcall : inCallback s.stack = false) :
    let y := Whole.pass s.cfg (enterPass s)
    RunsTo .isrPass s (y.1, { y.2 with seq := { y.2.seq with inPass := false }, served := topIsTask s.stack }) := by
  intro y
  obtain ⟨k, hk⟩ := endsAs_startPass .passCmd (quiet_of_undisturbed hs) hcb
  have hstack : y.2.stack = s.stack := wholePass_stack s.cfg (enterPass s)
  rw [← hstack]
  refine ⟨startPass .passCmd s, k, ?_, hk⟩
  simp [exec, execIsrPass, request_ready s _ hs.ready.1 hs.ready.2, hin, hpass, hcall]

/-! ## Operations and the bytes outside their registers -/

/-- Settles O54: each operation runs as its pseudocode, and each write of the pseudocode is to a register named. -/
theorem operationsStoreOnlyTheirRegisters : Obligations.OperationsStoreOnlyTheirRegisters := by
  intro s flv opt and or a hs hg
  have hQ := robust_holdsByte s.cfg a (readByte s.env.chip.mem a)
  have hbyte {w : Whole} (hw : Keeps (HoldsByte s.cfg a (readByte s.env.chip.mem a)) w) :
      readByte (w s).2.env.chip.mem a = readByte s.env.chip.mem a := (hw s ⟨rfl, hg, rfl⟩).byte
  refine ⟨fun hna hdx => ⟨⟨runsTo_startTx hs hna flv opt, hbyte (keeps_wholeStartTx hQ flv opt hdx)⟩, fun hcca hpll =>
      ⟨runsTo_startRx hs hna opt hcca, hbyte (keeps_wholeStartRx hQ opt hcca hdx hpll)⟩⟩,
    fun hna => ⟨runsTo_forceTrxOff hs hna, hbyte (keeps_wholeForceTrxOff hQ s.cfg)⟩,
    fun hdbl => ⟨runsTo_signalBufferFree hs hdbl, hbyte (keeps_free hQ s.cfg (keeps_ret _))⟩,
    fun hcfg => ⟨⟨runsTo_dblDisable hs, hbyte (keeps_wholeDblDisable hQ hcfg)⟩, fun haddr hoff hdiag =>
      ⟨runsTo_dblEnable hs opt, hbyte (keeps_wholeDblEnable hQ opt hcfg haddr hoff hdiag)⟩⟩,
    fun hirq => ⟨runsTo_irqSrcModify hs and or, hbyte (keeps_irqSrcModify hQ and or hirq)⟩,
    fun hcb hin hpass hcall hlo hhi hsub hdss hpll => ⟨runsTo_isrPass hs hcb hin hpass hcall, ?_⟩⟩
  exact (keeps_wholePass hQ hlo hhi hsub hdss hpll (enterPass s) ⟨rfl, hg, rfl⟩).byte

end Sys2Proof.Proofs
end

section
/-! SUPPORT. The double-buffer operations as stated (44_dblbuf.md R280 to R289): their pseudocode, the free that is refused,
and the buffers they come to while the chip answers. -/

namespace Sys2Proof.Proofs

open Sys2Proof.Machine Sys2Proof.Laws

/-- 44_dblbuf.md R287: nothing is emitted with `ctx.dbl = Off`. -/
theorem answersOnly_signalBufferFree {s : State} (hs : Ready s) (hd : s.ctx.dbl = .off) :
    AnswersOnly .signalBufferFree s (.err .invalidArgument) := by
  simp only [AnswersOnly, exec, execSignalBufferFree, request_ready s _ hs.1 hs.2, hd]
  rfl

/-- Settles O34: each operation runs as its pseudocode, point by point; a free in `Off` names no point. -/
theorem doubleBufferFollowsPseudocode : Obligations.DoubleBufferFollowsPseudocode :=
  ⟨fun _ hs => ⟨runsTo_dblEnable hs, runsTo_dblDisable hs, runsTo_signalBufferFree hs⟩,
    fun _ hs hd => answersOnly_signalBufferFree hs hd⟩

/-! ## A bus that does not fail (44_dblbuf.md R289) -/

/-- Nothing is scheduled, `ctx.dbl` is `d`, and the answers to come are `rest`. -/
structure OnBuffer (d : Dbl) (rest : List Reply) (s : State) : Prop where
  undisturbed : Undisturbed s
  dbl : s.ctx.dbl = d
  replies : s.env.replies = rest

/-- From every state of `P` the pseudocode `w` answers `Ok` and comes to a state of `Q`. -/
def Succeeds (P : State → Prop) (w : Whole) (Q : State → Prop) : Prop :=
  ∀ s, P s → ∃ t, w s = (.ok .unit, t) ∧ Q t

section
variable {d : Dbl} {rest : List Reply} {P Q R : State → Prop} {w : Whole}

theorem succeeds_ret : Succeeds Q (Whole.ret (.ok .unit)) Q :=
  fun s hs => ⟨s, rfl, hs⟩

theorem undisturbed_sameBlock {s t : State} (hs : Undisturbed s) (hb : SameBlock s t) : Undisturbed t :=
  ⟨hb.cfg ▸ hs.cfg, ⟨hb.ctx ▸ hs.ready.1, hb.seq ▸ hs.ready.2⟩, hb.sched ▸ hs.sched, hb.served ▸ hs.served⟩

/-- A write that the chip answers, in every CRC mode. -/
theorem busWrite_answered {s : State} (hdr body : List Byte) (hr : s.env.replies = .chip :: rest) :
    (busWrite hdr body s).1 = true := by
  simp [busWrite_eq, transfer, nextReply, hr]

/-- A write uses up one answer of the chip, and leaves the buffer. -/
theorem succeeds_send {hdr body : List Byte} (h : Succeeds (OnBuffer d rest) w Q) :
    Succeeds (OnBuffer d (.chip :: rest)) (Whole.send hdr body w) Q := by
  intro s hs
  have hok := busWrite_answered hdr body hs.replies
  have hb := sameBlock_busWrite hdr body s
  have hrest : (busWrite hdr body s).2.env.replies = rest :=
    (transfer_replies ..).trans (congrArg List.tail hs.replies)
  unfold Whole.send
  generalize busWrite hdr body s = y at hok hb hrest
  obtain ⟨_, t⟩ := y
  subst hok
  exact h t ⟨undisturbed_sameBlock hs.undisturbed hb, (congrArg Ctx.dbl hb.ctx).trans hs.dbl, hrest⟩

theorem OnBuffer.setDbl {s : State} (hs : OnBuffer d rest s) (d' : Dbl) : OnBuffer d' rest (setDbl d' s) :=
  ⟨⟨hs.undisturbed.cfg, hs.undisturbed.ready, hs.undisturbed.sched, hs.undisturbed.served⟩, rfl, hs.replies⟩

theorem succeeds_upd {f : State → State} (hf : ∀ s, P s → Q (f s)) (h : Succeeds Q w R) : Succeeds P (Whole.upd f w) R :=
  fun s hs => h (f s) (hf s hs)

/-- 44_dblbuf.md R280: four writes, and `Buffer0` behind the first. -/
theorem succeeds_dblEnable (c : Cfg) (auto : Bool) :
    Succeeds (OnBuffer d (.chip :: .chip :: .chip :: .chip :: rest)) (Whole.dblEnable c auto) (OnBuffer .buffer0 rest) :=
  succeeds_send <| succeeds_upd (fun _ hs => hs.setDbl .buffer0) <|
    succeeds_send <| succeeds_send <| succeeds_send succeeds_ret

/-- 44_dblbuf.md R286: the toggle, and the other buffer behind it. -/
theorem succeeds_free (c : Cfg) :
    Succeeds (OnBuffer d (.chip :: rest)) (Whole.free c (Whole.ret (.ok .unit))) (OnBuffer d.other rest) := by
  refine succeeds_send (succeeds_upd (fun s hs => ?_) succeeds_ret)
  have hflip := hs.setDbl d.other
  rw [← hs.dbl] at hflip ⊢
  exact flipDbl_eq s ▸ hflip

end

theorem dblEnable_onBuffer {s : State} {d : Dbl} {rest : List Reply} (auto : Bool)
    (hs : OnBuffer d (.chip :: .chip :: .chip :: .chip :: rest) s) :
    ∃ t, RunsTo (.dblEnable auto) s (.ok .unit, t) ∧ OnBuffer .buffer0 rest t := by
  obtain ⟨t, hrun, ht⟩ := succeeds_dblEnable s.cfg auto s hs
  exact ⟨t, hrun ▸ runsTo_dblEnable hs.undisturbed auto, ht⟩

theorem signalBufferFree_onBuffer {s : State} {d : Dbl} {rest : List Reply} (hs : OnBuffer d (.chip :: rest) s)
    (hd : d ≠ .off) :
    ∃ t, RunsTo .signalBufferFree s (.ok .unit, t) ∧ OnBuffer d.other rest t := by
  obtain ⟨t, hrun, ht⟩ := succeeds_free s.cfg s hs
  exact ⟨t, hrun ▸ runsTo_signalBufferFree hs.undisturbed (hs.dbl ▸ hd), ht⟩

/-- Settles O35: the enable uses up four answers of the chip and comes to `Buffer0`; each free uses up one and flips. -/
theorem bufferFreeAlternates : Obligations.BufferFreeAlternates := by
  intro s auto rest hs hr
  obtain ⟨t0, hrun0, h0⟩ := dblEnable_onBuffer auto ⟨hs, rfl, hr⟩
  obtain ⟨t1, hrun1, h1⟩ := signalBufferFree_onBuffer h0 (by decide)
  obtain ⟨t2, hrun2, h2⟩ := signalBufferFree_onBuffer h1 (by decide)
  exact ⟨t0, t1, t2, hrun0, h0.dbl, hrun1, h1.dbl, hrun2, h2.dbl⟩

end Sys2Proof.Proofs
end

section
/-! SUPPORT. The way of a classifier pass from point to point (45_event_classifier.md R300, R302, R312): a requested pass as
stated, the order of its points, and where each group reaches its callback. -/

namespace Sys2Proof.Proofs

open Sys2Proof.Machine Sys2Proof.Laws

/-- Settles O36: the pass runs its pseudocode from its entry on, group by group. -/
theorem passFollowsPseudocode : Obligations.PassFollowsPseudocode :=
  fun _ hs hcb hin hpass hcall => runsTo_isrPass hs hcb hin hpass hcall

/-! ## From a point to the next -/

/-- A pass that goes on, goes on from an action that did not fail (45_event_classifier.md R335). -/
theorem passFollow_of_resume_goto {p : PassPt} {v : Snap} {r : ActResult} {s s' : State} {n : Point}
    (h : passResume p v r s = (s', .goto n)) : passFollow p v r.bytes s = (s', .goto n) := by
  unfold passResume at h
  split at h
  · exact absurd (congrArg Prod.snd h) nofun
  · exact h

/-- Settles O39: what follows an action goes onward in rank, with the snapshot that the capture left. -/
theorem passVisitsPointsInOrder : Obligations.PassVisitsPointsInOrder := by
  intro p v r s s' n h
  obtain ⟨v', s0, honward, hfstat, hst, -⟩ := passFollow_onward p v r.bytes s
  have hnext := honward.next
  rw [passFollow_of_resume_goto h] at hnext
  obtain hdone | ⟨q, w, hgoto, hrank, hf, hs⟩ := hnext
  · exact absurd hdone nofun
  · exact ⟨q, w, Next.goto.inj hgoto, hrank, fun hp => hf.trans (hfstat hp),
      fun hp1 hp2 hp3 => hs.trans (hst hp1 hp2 hp3)⟩

/-! ## The ways inside a group -/

/-- The ways of a pass, with `ctx.dbl = d`, to a point that no group begins with. -/
inductive Inside (d : Dbl) : PassPt → PassPt → Prop where
  | capStatus : Inside d .capFstat .capStatus
  | capSub : Inside d .capStatus .capSub
  | g2aHi : Inside d .g2aLo .g2aHi
  | g2aCb : Inside d .g2aHi .g2aCb
  | g2bCb : Inside d .g2bHi .g2bCb
  | g3Cb : Inside d .g3Pll .g3Cb
  | g3Clr : Inside d .g3Cb .g3Clr
  | g4Clr : Inside d .g4Cb .g4Clr
  | g5Sub : Inside d .g5Clr .g5Sub
  | g5Single (q : PassPt) (hq : q = .g5Err ∨ q = .g5Ok) (hd : d = .off) : Inside d .g5Clr q
  | g5Double (q : PassPt) (hq : q = .g5Err ∨ q = .g5Ok) : Inside d .g5Sub q
  | g5Toggle (p : PassPt) (hp : p = .g5Err ∨ p = .g5Ok) : Inside d p .g5Toggle
  | g5Flip : Inside d .g5Toggle .g5Flip
  | g6Toggle : Inside d .g6Clr .g6Toggle
  | g6Flip : Inside d .g6Toggle .g6Flip
  | g6Single (hd : d = .off) : Inside d .g6Clr .g6Cb
  | g6Double : Inside d .g6Flip .g6Cb
  | g7Toggle : Inside d .g7Clr .g7Toggle
  | g7Flip : Inside d .g7Toggle .g7Flip
  | g7Single (hd : d = .off) : Inside d .g7Clr .g7Cb
  | g7Double : Inside d .g7Flip .g7Cb
  | g8Clr : Inside d .g8Read .g8Clr
  | g8Cb : Inside d .g8Clr .g8Cb

/-- From `p`, what goes on, goes on inside the group or at the first point of another. -/
def StaysOrGate (d : Dbl) (p : PassPt) (y : State × Next) : Prop :=
  ∀ q w, y.2 = passGoto q w → isGate q = true ∨ Inside d p q

theorem staysOrGate_goto {d : Dbl} {p q : PassPt} {s : State} {v : Snap} (h : Inside d p q) :
    StaysOrGate d p (s, passGoto q v) := by
  intro q' w he
  obtain ⟨rfl, -⟩ := Point.pass.inj (Next.goto.inj he)
  exact .inr h

theorem staysOrGate_gate {d : Dbl} {p : PassPt} {y : State × Next} (h : AtGate y) : StaysOrGate d p y :=
  fun q w he => .inl (h q w he)

theorem staysOrGate_done {d : Dbl} {p : PassPt} {s : State} : StaysOrGate d p (s, doneOk) :=
  fun _ _ he => absurd he nofun

/-- Either side of a test may use its outcome. -/
theorem staysOrGate_ite {d : Dbl} {p : PassPt} {b : Bool} {x y : State × Next} (hx : b = true → StaysOrGate d p x)
    (hy : b = false → StaysOrGate d p y) : StaysOrGate d p (if b then x else y) := by
  cases b
  · exact hy rfl
  · exact hx rfl

theorem eq_off_of_not_active {d : Dbl} (h : d.active = false) : d = .off :=
  bne_eq_false_iff_eq.1 h

/-- The dispatch of group 5 goes to its two callbacks (45_event_classifier.md R324, R325). -/
theorem dispatchRx_stays {d : Dbl} {p : PassPt} {v : Snap} {s : State}
    (h : ∀ q, q = .g5Err ∨ q = .g5Ok → Inside d p q) :
    StaysOrGate d p (dispatchRx v s) :=
  staysOrGate_ite (fun _ => staysOrGate_goto (h _ (.inl rfl))) (fun _ => staysOrGate_goto (h _ (.inr rfl)))

theorem passFollow_stays (p : PassPt) (v : Snap) (d : List Byte) (s : State) :
    StaysOrGate s.ctx.dbl p (passFollow p v d s) := by
  cases p <;> simp only [passFollow]
  case capFstat => exact staysOrGate_goto .capStatus
  case capStatus =>
    exact staysOrGate_ite (fun _ => staysOrGate_goto .capSub) (fun _ => staysOrGate_gate (endCapture_gate _ _))
  case capSub => exact staysOrGate_gate (endCapture_gate _ _)
  case g2Hi => exact staysOrGate_gate (enterGroup2a_gate _ _)
  case g2aLo => exact staysOrGate_goto .g2aHi
  case g2aHi => exact staysOrGate_goto .g2aCb
  case g2aCb => exact staysOrGate_gate (enterGroup2b_gate _ _)
  case g2bHi => exact staysOrGate_goto .g2bCb
  case g2bCb => exact staysOrGate_gate (enterGroup3_gate _ _)
  case g3Pll => exact staysOrGate_goto .g3Cb
  case g3Cb => exact staysOrGate_goto .g3Clr
  case g3Clr => exact staysOrGate_gate (enterGroup4_gate _ _)
  case g4Cb => exact staysOrGate_goto .g4Clr
  case g4Clr => exact staysOrGate_gate (enterBenign_gate _ _)
  case g5Benign => exact staysOrGate_gate (enterGroup5_gate _ _)
  case g5Finfo => exact staysOrGate_gate (atGate_goto _ _ _ rfl)
  case g5Clr =>
    exact staysOrGate_ite (fun _ => staysOrGate_goto .g5Sub)
      (fun hd => dispatchRx_stays (fun q hq => .g5Single q hq (eq_off_of_not_active hd)))
  case g5Sub => exact dispatchRx_stays .g5Double
  case g5Err =>
    exact staysOrGate_ite (fun _ => staysOrGate_goto (.g5Toggle _ (.inl rfl)))
      (fun _ => staysOrGate_gate (enterGroup6_gate _ _))
  case g5Ok =>
    exact staysOrGate_ite (fun _ => staysOrGate_goto (.g5Toggle _ (.inr rfl)))
      (fun _ => staysOrGate_gate (enterGroup6_gate _ _))
  case g5Toggle => exact staysOrGate_goto .g5Flip
  case g5Flip => exact staysOrGate_gate (enterGroup6_gate _ _)
  case g6Clr =>
    exact staysOrGate_ite (fun _ => staysOrGate_goto .g6Toggle)
      (fun hd => staysOrGate_goto (.g6Single (eq_off_of_not_active hd)))
  case g6Toggle => exact staysOrGate_goto .g6Flip
  case g6Flip => exact staysOrGate_goto .g6Double
  case g6Cb => exact staysOrGate_gate (enterGroup7_gate _ _)
  case g7Clr =>
    exact staysOrGate_ite (fun _ => staysOrGate_goto .g7Toggle)
      (fun hd => staysOrGate_goto (.g7Single (eq_off_of_not_active hd)))
  case g7Toggle => exact staysOrGate_goto .g7Flip
  case g7Flip => exact staysOrGate_goto .g7Double
  case g7Cb => exact staysOrGate_gate (enterGroup8_gate _ _)
  case g8Read =>
    split
    · exact staysOrGate_goto .g8Clr
    · exact staysOrGate_done
  case g8Clr => exact staysOrGate_goto .g8Cb
  case g8Cb => exact staysOrGate_done

/-- A point that no group begins with is reached from inside its group. -/
theorem inside_of_resume {p q : PassPt} {v w : Snap} {r : ActResult} {s s' : State} (hq : isGate q = false)
    (h : passResume p v r s = (s', .goto (.pass q w))) : Inside s.ctx.dbl p q := by
  have hnext : (passFollow p v r.bytes s).2 = passGoto q w := congrArg Prod.snd (passFollow_of_resume_goto h)
  exact (passFollow_stays p v r.bytes s q w hnext).resolve_left (by simp [hq])

/-- From a point with one continuation, the pass goes on there. -/
theorem target_of_follow {p q q' : PassPt} {v w w' : Snap} {r : ActResult} {s s' : State}
    (hf : passFollow p v r.bytes s = (s, passGoto q' w'))
    (h : passResume p v r s = (s', .goto (.pass q w))) : q = q' := by
  have hboth := hf.symm.trans (passFollow_of_resume_goto h)
  exact (Point.pass.inj (Next.goto.inj (congrArg Prod.snd hboth))).1.symm

/-- The two callbacks of group 5 are reached from its sub-register clear, or with the double buffer off from its clear. -/
theorem Inside.to_g5 {d : Dbl} {p q : PassPt} (hq : q = .g5Ok ∨ q = .g5Err) (h : Inside d p q) :
    p = .g5Sub ∨ (p = .g5Clr ∧ d = .off) := by
  cases h with
  | g5Single _ _ hd => exact .inr ⟨rfl, hd⟩
  | g5Double => exact .inl rfl
  | _ => simp at hq

theorem Inside.to_g6Cb {d : Dbl} {p : PassPt} (h : Inside d p .g6Cb) : p = .g6Flip ∨ (p = .g6Clr ∧ d = .off) := by
  cases h with
  | g6Single hd => exact .inr ⟨rfl, hd⟩
  | g6Double => exact .inl rfl
  | g5Single _ hq | g5Double _ hq => simp at hq

theorem Inside.to_g7Cb {d : Dbl} {p : PassPt} (h : Inside d p .g7Cb) : p = .g7Flip ∨ (p = .g7Clr ∧ d = .off) := by
  cases h with
  | g7Single hd => exact .inr ⟨rfl, hd⟩
  | g7Double => exact .inl rfl
  | g5Single _ hq | g5Double _ hq => simp at hq

/-- Settles O40: none of these points begins a group, so each is reached from inside its group, where the ways are listed. -/
theorem clearOrderOfGroups : Obligations.ClearOrderOfGroups := by
  refine ⟨fun v w q r s s' => ⟨target_of_follow rfl, target_of_follow rfl⟩, fun p v w r s s' => ?_⟩
  have hinside {q : PassPt} (hq : isGate q = false) (h : passResume p v r s = (s', .goto (.pass q w))) :
      Inside s.ctx.dbl p q := inside_of_resume hq h
  refine ⟨fun h => ?_, fun h => ?_, fun h => ?_, fun h => ?_, fun h => ?_, fun h => (hinside rfl h).to_g6Cb,
    fun h => ?_, fun h => ?_, fun h => (hinside rfl h).to_g7Cb, fun h => ?_, fun h => ?_, fun h => ?_⟩
  case refine_4 =>
    exact h.elim (fun hok => (hinside rfl hok).to_g5 (.inl rfl)) (fun herr => (hinside rfl herr).to_g5 (.inr rfl))
  all_goals
    cases hinside rfl h with
    | g5Single _ hq | g5Double _ hq => simp at hq
    | _ => rfl

end Sys2Proof.Proofs
end

section
/-! SUPPORT. One action of a classifier pass (45_event_classifier.md R324, R325, R334, R335): a `BusError`, the dispatch of a
reception, and a callback, whose handler may change which callbacks are present but not where the pass goes on. -/

namespace Sys2Proof.Proofs

open Sys2Proof.Machine Sys2Proof.Laws

/-- The operation in progress on top takes its action. -/
theorem step_top {s : State} {x : Task} {below : List Entry} (hq : Quiet s) (hst : s.stack = .task x :: below) :
    step s = .next (runTask x { s with stack := below }) := by
  rw [step_task s x below hq.cfg hq.halted hq.sched hst, ← hq.served]

/-! ## A failed transaction (45_event_classifier.md R335) -/

/-- An action of a pass is a read, a write, a callback or silent: a pass has no critical section. -/
theorem passAction_cases (c : Cfg) (x : Ctx) (p : PassPt) (v : Snap) :
    (∃ hdr checked n, passAction c x p v = .read hdr checked n) ∨ (∃ hdr body, passAction c x p v = .write hdr body) ∨
      (∃ f, passAction c x p v = .callback f) ∨ passAction c x p v = .silent := by
  cases p
  case capFstat | capStatus | capSub | g2Hi | g5Benign | g5Finfo | g8Read => exact .inl ⟨_, _, _, rfl⟩
  case g2aCb | g2bCb | g3Cb | g4Cb | g5Err | g5Ok | g6Cb | g7Cb | g8Cb => exact .inr (.inr (.inl ⟨_, rfl⟩))
  case g5Flip | g6Flip | g7Flip => exact .inr (.inr (.inr rfl))
  all_goals exact .inr (.inl ⟨_, _, rfl⟩)

theorem transfer_failed {e : Env} {reached : Bool} {rest : List Reply} (h : e.replies = .fail reached :: rest) (c : Cfg)
    (frame : List Byte) (n : Nat) : (transfer c frame n e).1 = none := by
  simp [transfer, nextReply, h]

/-- A transaction of a pass that fails ends the pass, after its one message. -/
theorem runTask_pass_failed {s : State} {o : Owner} {p : PassPt} {v : Snap} {reached : Bool} {rest : List Reply}
    (hr : s.env.replies = .fail reached :: rest) (hcb : ∀ f, passAction s.cfg s.ctx p v ≠ .callback f)
    (hsilent : passAction s.cfg s.ctx p v ≠ .silent) :
    ∃ e env, e.isBus = true ∧ runTask ⟨o, .pass p v, .ready⟩ s =
      finish o (.err .busError) { s with env, trace := e :: s.trace } := by
  obtain ⟨hdr, checked, n, ha⟩ | ⟨hdr, body, ha⟩ | ⟨f, ha⟩ | ha := passAction_cases s.cfg s.ctx p v
  · refine ⟨.busRead hdr n none, (transfer s.cfg hdr n s.env).2, rfl, ?_⟩
    simp only [runTask, actionOf, ha, perform, readAction, busRead_eq, transfer_failed hr]
    rfl
  · let y := transfer s.cfg (hdr ++ body ++ (trailer s hdr body).toList) 0 s.env
    refine ⟨.busWrite hdr body (trailer s hdr body) false, y.2, rfl, ?_⟩
    simp only [runTask, actionOf, ha, perform, busWrite_eq, transfer_failed hr]
    rfl
  · exact absurd ha (hcb f)
  · exact absurd ha hsilent

/-- Settles O43: the failed action is the last of the pass, which returns. -/
theorem busErrorEndsPass : Obligations.BusErrorEndsPass := by
  intro s o p v below reached rest hs ho hst hr hcb hsilent
  obtain ⟨e, env, he, hrun⟩ := runTask_pass_failed (o := o) (s := { s with stack := below }) hr hcb hsilent
  refine ⟨_, e, (step_top (quiet_of_undisturbed hs) hst).trans (congrArg _ hrun), ?_⟩
  cases o with
  | cmd => exact absurd rfl ho
  | passCmd => exact ⟨rfl, rfl, rfl, rfl, he, rfl⟩
  | passIrq => exact ⟨rfl, rfl, rfl, rfl, he, rfl⟩

/-! ## Callbacks (45_event_classifier.md R334) -/

/-- A present callback calls its handler, and the pass is held under it. -/
theorem runTask_callback_present {s : State} {o : Owner} {p : PassPt} {v : Snap} {f : CallbackId}
    (ha : passAction s.cfg s.ctx p v = .callback f) (hf : s.ctx.has f = true) :
    runTask ⟨o, .pass p v, .ready⟩ s = callHost f ⟨o, .pass p v, .held []⟩ s := by
  simp only [runTask, actionOf, ha, perform, callbackAction, hf, if_true]

theorem runTask_callback_absent {s : State} {o : Owner} {p : PassPt} {v : Snap} {f : CallbackId}
    (ha : passAction s.cfg s.ctx p v = .callback f) (hf : s.ctx.has f = false) :
    runTask ⟨o, .pass p v, .ready⟩ s = settle ⟨o, .pass p v, .ready⟩ (.data []) s := by
  simp only [runTask, actionOf, ha, perform, callbackAction, hf, Bool.false_eq_true, if_false]

/-- The handler on top returns to the task it was called from (60_exceptions.md R390). -/
theorem step_ret {s : State} {f : CallbackId} {x : Task} {below : List Entry} {rest : List Input} (hq : Quiet s)
    (hin : s.inputs = .ret :: rest) (hst : s.stack = .handler f :: .task x :: below) :
    step s = .next (settle x (.data x.phase.heldData) { s with stack := below, inputs := rest }) := by
  rw [step_fetch s hq.cfg hq.halted hq.sched (by simp [hst])]
  simp only [fetch, hin, decode, returnFromHandler, hst]

/-! ## What a pass does not look at -/

/-- The host has changed which callbacks are present, and its inputs are others. -/
def hostMoves (cb : Byte) (inputs : List Input) (s : State) : State :=
  { s with ctx := { s.ctx with cb }, inputs }

/-- The same of what follows an action. -/
def nextHostMoves (cb : Byte) (inputs : List Input) (y : State × Next) : State × Next :=
  (hostMoves cb inputs y.1, y.2)

section
variable (cb : Byte) (inputs : List Input) (v : Snap) (s : State)

/-- A test of what the host does not change. -/
theorem nextHostMoves_ite (b : Bool) {x y x' y' : State × Next} (hx : x' = nextHostMoves cb inputs x)
    (hy : y' = nextHostMoves cb inputs y) : (if b then x' else y') = nextHostMoves cb inputs (if b then x else y) := by
  cases b
  · exact hy
  · exact hx

theorem enterGroup8_hostMoves :
    enterGroup8 v (hostMoves cb inputs s) = nextHostMoves cb inputs (enterGroup8 v s) :=
  rfl

theorem enterGroup7_hostMoves :
    enterGroup7 v (hostMoves cb inputs s) = nextHostMoves cb inputs (enterGroup7 v s) :=
  nextHostMoves_ite _ _ _ rfl (enterGroup8_hostMoves ..)

theorem enterGroup6_hostMoves :
    enterGroup6 v (hostMoves cb inputs s) = nextHostMoves cb inputs (enterGroup6 v s) :=
  nextHostMoves_ite _ _ _ rfl (enterGroup7_hostMoves ..)

theorem dispatchRx_hostMoves :
    dispatchRx v (hostMoves cb inputs s) = nextHostMoves cb inputs (dispatchRx v s) :=
  nextHostMoves_ite _ _ _ rfl rfl

theorem enterGroup5_hostMoves :
    enterGroup5 v (hostMoves cb inputs s) = nextHostMoves cb inputs (enterGroup5 v s) :=
  nextHostMoves_ite _ _ _ (nextHostMoves_ite _ _ _ rfl rfl) (enterGroup6_hostMoves ..)

theorem enterBenign_hostMoves :
    enterBenign v (hostMoves cb inputs s) = nextHostMoves cb inputs (enterBenign v s) :=
  nextHostMoves_ite _ _ _ rfl (enterGroup5_hostMoves ..)

theorem enterGroup4_hostMoves :
    enterGroup4 v (hostMoves cb inputs s) = nextHostMoves cb inputs (enterGroup4 v s) :=
  nextHostMoves_ite _ _ _ rfl (enterBenign_hostMoves ..)

theorem enterGroup3_hostMoves :
    enterGroup3 v (hostMoves cb inputs s) = nextHostMoves cb inputs (enterGroup3 v s) :=
  nextHostMoves_ite _ _ _ rfl (enterGroup4_hostMoves ..)

theorem enterGroup2b_hostMoves :
    enterGroup2b v (hostMoves cb inputs s) = nextHostMoves cb inputs (enterGroup2b v s) :=
  nextHostMoves_ite _ _ _ rfl (enterGroup3_hostMoves ..)

theorem leaveGroup5_hostMoves :
    leaveGroup5 v (hostMoves cb inputs s) = nextHostMoves cb inputs (leaveGroup5 v s) :=
  enterGroup6_hostMoves ..

end

/-- After a callback a pass goes on where it would whatever callbacks are present, and whatever the inputs are. -/
theorem passResume_hostMoves {c : Cfg} {x : Ctx} {p : PassPt} {v : Snap} {f : CallbackId}
    (ha : passAction c x p v = .callback f) (cb : Byte) (inputs : List Input) (d : List Byte) (s : State) :
    passResume p v (.data d) (hostMoves cb inputs s) = nextHostMoves cb inputs (passResume p v (.data d) s) := by
  cases p
  case g2aCb => exact enterGroup2b_hostMoves ..
  case g2bCb => exact enterGroup3_hostMoves ..
  case g3Cb | g4Cb | g8Cb => rfl
  case g5Err | g5Ok => exact nextHostMoves_ite _ _ _ rfl (leaveGroup5_hostMoves ..)
  case g6Cb => exact enterGroup7_hostMoves ..
  case g7Cb => exact enterGroup8_hostMoves ..
  all_goals exact absurd ha nofun

theorem finish_hostMoves (cb : Byte) (inputs : List Input) (o : Owner) (r : Result) (s : State) :
    finish o r (hostMoves cb inputs s) = hostMoves cb inputs (finish o r s) := by
  cases o <;> rfl

theorem proceed_hostMoves (cb : Byte) (inputs : List Input) (o : Owner) (y : State × Next) :
    proceed o (nextHostMoves cb inputs y) = hostMoves cb inputs (proceed o y) := by
  obtain ⟨s, _ | _⟩ := y
  · rfl
  · exact finish_hostMoves ..

/-- A pass whose callback returns goes on like one whose callback is absent, whatever the host has done meanwhile. -/
theorem settle_callback_hostMoves {c : Cfg} {x : Ctx} {p : PassPt} {v : Snap} {f : CallbackId}
    (ha : passAction c x p v = .callback f) (cb : Byte) (inputs : List Input) (o : Owner) (d : List Byte) (s : State) :
    settle ⟨o, .pass p v, .held d⟩ (.data d) (hostMoves cb inputs s) =
      hostMoves cb inputs (settle ⟨o, .pass p v, .ready⟩ (.data d) s) := by
  simp only [settle_eq_proceed, resumeAt, passResume_hostMoves ha, proceed_hostMoves]

/-- Settles O42: a call, a skip, and a return that goes on like the skip, for what follows a callback looks neither at the
presence bits nor at the inputs. -/
theorem callbackRunsNestedAndReturns : Obligations.CallbackRunsNestedAndReturns := by
  intro s o p v below f inputs hs hst ha
  have hq := quiet_of_undisturbed hs
  have hstep := step_top hq hst
  refine ⟨fun hf => ?_, fun hf => ?_⟩
  · exact hstep.trans (congrArg _ (runTask_callback_present (s := { s with stack := below }) ha hf))
  · refine ⟨_, hstep.trans (congrArg _ (runTask_callback_absent (s := { s with stack := below }) ha hf)), fun cb => ?_⟩
    exact Eq.trans (step_ret ⟨hq.cfg, hq.halted, hq.sched, hq.served⟩ rfl rfl)
      (congrArg _ (settle_callback_hostMoves ha cb inputs o [] { s with stack := below }))

/-! ## The dispatch of a reception (45_event_classifier.md R324, R325) -/

theorem has_of_allCallbacks {x : Ctx} (h : x.cb = 0xFF) (f : CallbackId) : x.has f = true := by
  cases f <;> simp [Ctx.has, CallbackId.num, h]

/-- The clear write of group 5, when it succeeds with the double buffer off. -/
theorem runTask_g5Clr {s : State} {o : Owner} {v : Snap} (hd : s.ctx.dbl = .off)
    (hw : (busWrite (accessHdr .write s.cfg.REG.STATUS_LO 0) (le32 v.clr) s).1 = true) :
    runTask ⟨o, .pass .g5Clr v, .ready⟩ s =
      proceed o (dispatchRx v (busWrite (accessHdr .write s.cfg.REG.STATUS_LO 0) (le32 v.clr) s).2) := by
  have hoff : s.ctx.dbl.active = false := by rw [hd]; rfl
  simp only [runTask, actionOf, passAction, clearLo, writeAct, perform, hw, if_true, settle_eq_proceed, resumeAt, passResume,
    passFollow, busWrite_ctx, hoff]
  rfl

/-- The test of the dispatch decides the record and the callback. -/
theorem dispatchRx_eq (v : Snap) (s : State) :
    dispatchRx v s = (setEvt (phrErrUpdate s.evt) s,
      passGoto (if s.evt.datalen = 0 ∧ s.evt.flags.noData = false then .g5Err else .g5Ok) v) := by
  have htest : s.evt.isPhrErr = true ↔ s.evt.datalen = 0 ∧ s.evt.flags.noData = false := by simp [EventRec.isPhrErr]
  simp only [dispatchRx, phrErrUpdate, htest]
  split <;> rfl

theorem passAction_rxCallback (c : Cfg) (x : Ctx) (v : Snap) (P : Prop) [Decidable P] :
    passAction c x (if P then .g5Err else .g5Ok) v = .callback (if P then .onRxError else .onRxOk) := by
  split <;> rfl

/-- Settles O41: the length of the record and its no-data flag decide the dispatch, and the callback is next. -/
theorem zeroLengthIsPhyHeaderError : Obligations.ZeroLengthIsPhyHeaderError := by
  rintro s o v below f hs hst hd hcb rfl hw
  have hq := quiet_of_undisturbed hs
  have hclear := (step_top hq hst).trans (congrArg _ (runTask_g5Clr (s := { s with stack := below }) hd hw))
  rw [dispatchRx_eq] at hclear
  let s' := setEvt (phrErrUpdate s.evt)
    (busWrite (accessHdr .write s.cfg.REG.STATUS_LO 0) (le32 v.clr) { s with stack := below }).2
  have hq' : Quiet s' := ⟨hq.cfg, hq.halted, hq.sched, hq.served⟩
  have ha := passAction_rxCallback s.cfg s.ctx v (s.evt.datalen = 0 ∧ s.evt.flags.noData = false)
  have hcall := runTask_callback_present (s := s') (o := o) ha (has_of_allCallbacks hcb _)
  exact ⟨_, _, hclear, (step_park hq').trans (congrArg _ hcall), rfl, rfl, ⟨_, rfl⟩, rfl⟩

end Sys2Proof.Proofs
end

section
/-! SUPPORT. The context operations (46_context_ops.md R350, R353 to R359, R361): `init`, the setters and
`irq_src_modify`. -/

namespace Sys2Proof.Proofs

open Sys2Proof.Machine Sys2Proof.Laws

/-! ## `irq_src_modify` -/

/-- 43_trx_sequencer.md R263: the first action of the critical section closes the platform's mask and keeps its token. -/
theorem exec_irqSrcModify_ready {s : State} (hs : Ready s) (and or : Word) :
    exec (.irqSrcModify and or) s =
      .next (park (cmdTask (.crit (.run s.env.platMask) (.irqSrc and or))) (maskOff s)) :=
  request_ready s _ hs.1 hs.2

/-- The protected write leaves the mask closed, and the section goes on to its end whether the write failed or not. -/
theorem runTask_irqSrcWrite (tok : Bool) (and or : Word) (s : State) :
    let y := busWrite (accessHdr .mod32 s.cfg.REG.IRQ_EN_LO 0) (le32 and ++ le32 or) s
    runTask (cmdTask (.crit (.run tok) (.irqSrc and or))) s =
      park (cmdTask (.crit (.unmask tok (if y.1 then .ok .unit else .err .busError)) (.irqSrc and or))) y.2 := by
  intro y
  show settle (cmdTask (.crit (.run tok) (.irqSrc and or))) (if y.1 then .ok else .failed) y.2 = _
  cases y.1 <;> rfl

theorem guarded_irqMasked (hdr body : List Byte) (s : State) : (Whole.guarded hdr body s).2.seq.irqMasked = false :=
  rfl

theorem guarded_platMask (hdr body : List Byte) (s : State) :
    (Whole.guarded hdr body s).2.env.platMask = s.env.platMask :=
  rfl

/-- Settles O29: the run is the critical section's; its first two actions leave `seq.irq_masked` set, and its last puts
both masks back, whatever the bus answered. -/
theorem irqSrcModifyIsOneCriticalSection : Obligations.IrqSrcModifyIsOneCriticalSection := by
  intro s and or hs hdr
  have hq := quiet_of_undisturbed hs
  have hq' : Quiet (maskOff s) := ⟨hq.cfg, hq.halted, hq.sched, hq.served⟩
  have hwrite := (step_park hq').trans (congrArg _ (runTask_irqSrcWrite s.env.platMask and or (maskOff s)))
  exact ⟨runsTo_irqSrcModify hs and or, ⟨_, _, exec_irqSrcModify_ready hs.ready and or, rfl, rfl, rfl, hwrite, rfl⟩,
    guarded_irqMasked _ _ s, guarded_platMask _ _ s⟩

/-! ## `init` -/

/-- 30_encoding.md R112: the row of op code 0x00, which no other op code names. -/
theorem decodeCmd_eq_init_iff (r : CmdReq) : decodeCmd r = .init ↔ r.op = 0x00 := by
  refine ⟨fun h => ?_, fun hop => ?_⟩
  · unfold decodeCmd at h
    split at h
    case h_1 hop => exact hop
    all_goals exact absurd h nofun
  · cases r
    cases hop
    rfl

/-- Settles O2: one op code names `init`, and `init` asks nothing but that the block is not halted. -/
theorem initRecreatesContext : Obligations.InitRecreatesContext := by
  refine ⟨decodeCmd_eq_init_iff, fun s hh => ?_⟩
  simp only [exec, execInit, hh]
  rfl

/-! ## The setters -/

theorem setCtx_ready {s : State} (hs : Ready s) (f : Ctx → Ctx) :
    setCtx f s = reply (.ok .unit) { s with ctx := f s.ctx } :=
  request_ready s _ hs.1 hs.2

/-- 46_context_ops.md R352: an admitted setter leaves the context its operand makes, and nothing else changes. -/
theorem setsContext_of_setterResult {i : Instr} {s : State} {x : Ctx} (hs : Ready s)
    (h : setterResult i s.ctx = some x) : SetsContext i s x := by
  cases i with
  | setCrcMode m =>
    obtain ⟨mode, hm, rfl⟩ := Option.map_eq_some_iff.1 h
    simp only [SetsContext, exec, execSetCrcMode, hm, setCtx_ready hs]
    rfl
  | setChannel | setSts | setFceDis | setZeroLenOk | setLongFrames | setCallback =>
    cases h
    simp only [SetsContext, exec, execSetChannel, execSetSts, execSetFceDis, execSetZeroLenOk, execSetLongFrames,
      execSetCallback, setCtx_ready hs]
    rfl
  | _ => exact absurd h nofun

/-- 46_context_ops.md R359: an entry of the callback table after one was written. -/
theorem withCallback_getLsbD (cb : Byte) (id : BitVec 3) (present : Bool) {n : Nat} (hn : n < 8) :
    (withCallback cb id present).getLsbD n = if n = id.toNat then present else cb.getLsbD n := by
  have hbit : (1#8 <<< id.toNat).getLsbD n = decide (n = id.toNat) :=
    (BitVec.getLsbD_twoPow id.toNat n).trans (by simp [id.isLt, eq_comm])
  cases present
  · simp only [withCallback, Bool.false_eq_true, if_false, BitVec.getLsbD_and, BitVec.getLsbD_not, hbit, hn]
    split <;> simp [*]
  · simp only [withCallback, if_true, BitVec.getLsbD_or, hbit]
    split <;> simp [*]

theorem callbackId_num_lt (f : CallbackId) : f.num < 8 := by
  cases f <;> decide

/-- Settles O4: every setter but `set_crc_mode` 3, which names no mode, is an admitted write of the context. -/
theorem settersWriteContextOnly : Obligations.SettersWriteContextOnly := by
  intro s hs
  have hset {i : Instr} {x : Ctx} (h : setterResult i s.ctx = some x) : SetsContext i s x :=
    setsContext_of_setterResult hs h
  refine ⟨fun _ => hset rfl, fun _ _ => hset rfl, hset rfl, hset rfl, hset rfl, ?_, fun _ => hset rfl, fun _ => hset rfl,
    fun _ => hset rfl, fun id present => ?_⟩
  · exact request_ready s (reply (.err .invalidArgument)) hs.1 hs.2
  · exact ⟨_, hset rfl, fun f => withCallback_getLsbD s.ctx.cb id present (callbackId_num_lt f)⟩

end Sys2Proof.Proofs
end

section
/-! SUPPORT. Interrupt entry and return (60_exceptions.md R381 to R390): what lets a pass start at a boundary, its first
action, its run to the end, who can begin a pass, and what a step leaves below the operation in progress. -/

namespace Sys2Proof.Proofs

open Sys2Proof.Machine Sys2Proof.Laws

/-! ## The start of a pass at a boundary (60_exceptions.md R383) -/

/-- The conditions of 60_exceptions.md R381 (b), with no handler on top (log 14) and no action due (log 37). -/
theorem passMayStart_of {s : State} (hs : Ready s) (hirq : s.env.irq = true) (hin : s.seq.inPass = false)
    (hmask : s.seq.irqMasked = false) (hpass : hasPass s.stack = false) (hserved : s.served = false)
    (htop : ∀ f below, s.stack ≠ .handler f :: below) : passMayStart s = true := by
  simp only [passMayStart, hirq, hs.1, hs.2, hin, hmask, hpass, hserved, Bool.not_false, Bool.and_self, Bool.true_and]
  split
  · next f below hst => exact absurd hst (htop f below)
  all_goals rfl

/-- A boundary that starts a pass which is allowed. -/
theorem step_startPass {s : State} (hw : s.cfg.wf = true) (hs : Ready s) (hp : (boundary s).power = false)
    (hb : (boundary s).start = true) (hirq : (tick s).env.irq = true) (hin : s.seq.inPass = false)
    (hmask : s.seq.irqMasked = false) (hpass : hasPass s.stack = false) (hserved : s.served = false)
    (htop : ∀ f below, s.stack ≠ .handler f :: below) : step s = .next (startPass .passIrq (tick s)) := by
  have hready : Ready (tick s) := ⟨(congrArg Ctx.live (tick_ctx s)).trans hs.1,
    (congrArg Sequencer.halted (tick_seq s)).trans hs.2⟩
  have hm : passMayStart (tick s) = true :=
    passMayStart_of hready hirq (by simpa using hin) (by simpa using hmask) (by simpa using hpass)
      (by simpa using hserved) (by simpa using htop)
  simp [step, hw, hp, hs.2, advance, hb, hm]

/-- The first action of a pass is the read of the fast status (45_event_classifier.md R302): a failure ends the pass, else
the pass waits over the continuation below, for its next point or for the echo of this read. -/
theorem startPass_cases (o : Owner) (s : State) :
    let y := busRead (accessHdr .read s.cfg.REG.FSTAT 0) 1 (enterPass s)
    (y.1 = none ∧ startPass o s = finish o (.err .busError) y.2) ∨
      (y.1 ≠ none ∧ ∃ p v ph, startPass o s = park ⟨o, .pass p v, ph⟩ y.2) := by
  have hread : startPass o s = readAction ⟨o, .pass .capFstat {}, .ready⟩ (accessHdr .read s.cfg.REG.FSTAT 0)
      (checkedAddr s.cfg s.cfg.REG.FSTAT) 1 (enterPass s) := rfl
  rw [hread]
  unfold readAction
  rcases busRead (accessHdr .read s.cfg.REG.FSTAT 0) 1 (enterPass s) with ⟨_ | d, s1⟩
  · exact .inl ⟨rfl, rfl⟩
  · refine .inr ⟨nofun, ?_⟩
    dsimp only
    split
    · exact ⟨_, _, _, rfl⟩
    · exact ⟨.capStatus, _, .ready, rfl⟩

/-- Settles O45: the boundary starts the pass, whose first action is the read of the fast status. -/
theorem passEntrySequence : Obligations.PassEntrySequence := by
  intro s hw hs hp hb hirq hin hmask hpass hserved htop
  have hstep := step_startPass hw hs hp hb hirq hin hmask hpass hserved htop
  rw [← tick_cfg s, ← tick_ctx s, ← tick_inputs s, ← tick_stack s, ← tick_trace s]
  refine ⟨_, (busRead (accessHdr .read (tick s).cfg.REG.FSTAT 0) 1 (enterPass (tick s))).1, hstep, ?_⟩
  obtain ⟨hfail, h⟩ | ⟨hdata, p, v, ph, h⟩ := startPass_cases .passIrq (tick s) <;> rw [h]
  · exact ⟨rfl, rfl, rfl, rfl, fun _ => ⟨rfl, rfl⟩, fun hd => absurd hfail hd⟩
  · exact ⟨rfl, rfl, rfl, rfl, fun hd => absurd hd hdata, fun _ => ⟨rfl, _, rfl, rfl, p, v, rfl⟩⟩

/-- Settles O37: the boundary starts the pass, which runs its pseudocode to its end and returns. -/
theorem irqPassRunsAndReturns : Obligations.IrqPassRunsAndReturns := by
  intro s b hw hs hsched hb hp hirq hcb hin hmask hpass hserved htop y
  have hslot : boundary s = b := by simp [boundary, hsched]
  have hstep := step_startPass hw hs (hslot ▸ hp) (hslot ▸ hb) hirq hin hmask hpass hserved htop
  have hq : Quiet (tick s) := by
    rw [tick_cons s b [] hsched]
    exact ⟨hw, hs.2, rfl, hserved⟩
  obtain ⟨k, hk⟩ := endsAs_startPass .passIrq hq (by simpa using hcb)
  have hy : Whole.pass (tick s).cfg (enterPass (tick s)) = y := by
    simp only [y, enterPass, tick_seq, tick_cfg]
    rfl
  have hstack : y.2.stack = s.stack := by
    rw [← hy, wholePass_stack]
    exact tick_stack s
  rw [hy] at hk
  rw [← hstack]
  exact ⟨rfl, k + 1, run_succ hstep hk⟩

/-- Settles O38: each of the three conditions is one of the tests `isr_pass` makes before it starts a pass. -/
theorem isrPassRefusedInsidePassAndCallback : Obligations.IsrPassRefusedInsidePassAndCallback := by
  intro s hs h
  have htest : (s.seq.inPass || hasPass s.stack || inCallback s.stack) = true := by
    simpa only [Bool.or_eq_true, or_assoc] using h
  simp only [AnswersOnly, exec, execIsrPass, request_ready s _ hs.1 hs.2, htest]
  rfl

/-! ## Who begins a pass (60_exceptions.md R381, R389) -/

/-- Between `s` and `t` a pass begins: its flag is set, or the stack holds one more. -/
def PassBegins (s t : State) : Prop :=
  (s.seq.inPass = false ∧ t.seq.inPass = true) ∨ passCount s.stack < passCount t.stack

theorem not_passBegins {s t : State} (hin : t.seq.inPass = true → s.seq.inPass = true)
    (hc : passCount t.stack ≤ passCount s.stack) : ¬PassBegins s t := by
  rintro (⟨hs, ht⟩ | hlt)
  · exact absurd (hs.symm.trans (hin ht)) nofun
  · exact absurd hlt (Nat.not_lt.2 hc)

/-- The end of an action leaves at most the pass its task is. -/
theorem settle_passCount (x : Task) (r : ActResult) (s : State) :
    passCount (settle x r s).stack ≤ passCount (.task x :: s.stack) := by
  obtain ⟨-, -, -, -, -, -, -, hst | ⟨p, hst⟩, -⟩ := settle_frame x r s
  · exact hst ▸ passCount_le _ _
  · exact hst ▸ (passCount_task _ x s.stack rfl).le

/-- One action leaves at most the pass its task is. -/
theorem runTask_passCount (x : Task) (s : State) :
    passCount (runTask x s).stack ≤ passCount (.task x :: s.stack) := by
  have heff := runTask_effect x s
  generalize runTask x s = t at heff
  cases heff with
  | settled r e m es => exact settle_passCount x r _
  | waiting ph => exact (passCount_task _ x s.stack rfl).le
  | called f d =>
    rw [callHost_stack, passCount_handler]
    exact (passCount_task _ x s.stack rfl).le

/-- An operation of the CMD port is no pass. -/
theorem passCount_cmd (p : Point) (ph : Phase) (st : List Entry) :
    passCount (.task ⟨.cmd, p, ph⟩ :: st) = passCount st := by
  simp [passCount, Entry.isPass, Task.isPass]

/-- Of the instructions only `isr_pass` begins a pass, outside passes and callbacks. -/
theorem exec_passBegins {i : Instr} {s t : State} (he : exec i s = .next t) (h : PassBegins s t) :
    i = .isrPass ∧ s.ctx.live = true ∧ s.seq.inPass = false ∧ hasPass s.stack = false ∧ inCallback s.stack = false := by
  cases (exec_effect i s t he).2 with
  | answered | set | halts => exact absurd h (not_passBegins id le_rfl)
  | initialized | deinitialized => exact absurd h (not_passBegins nofun le_rfl)
  | started p =>
    have hcount := runTask_passCount ⟨.cmd, p, .ready⟩ s
    rw [passCount_cmd] at hcount
    exact absurd h (not_passBegins (runTask_frame _ s).inPass hcount)
  | pass hi hl hp hn hc => exact ⟨hi, hl, hp, hn, hc⟩

/-- Of what a step can do, only `isr_pass` and a boundary that starts one begin a pass. -/
theorem stepEffect_passBegins {s t : State} (eff : StepEffect s t) (h : PassBegins s t) :
    (s.ctx.live = true ∧ s.seq.inPass = false ∧ hasPass s.stack = false ∧ fetches s .isrPass ∧
      inCallback s.stack = false) ∨ ((boundary s).start = true ∧ passMayStart (tick s) = true) := by
  cases eff with
  | passStarts hb hm => exact .inr ⟨hb, hm⟩
  | taskRuns x below hst =>
    have hframe := runTask_frame x { tick s with stack := below, served := false }
    have hcount := runTask_passCount x { tick s with stack := below, served := false }
    exact absurd h (not_passBegins (fun ht => by simpa using hframe.inPass ht) (hst ▸ hcount))
  | waits => exact absurd h (not_passBegins (by simp) (by simp))
  | executes i rest _ hf he =>
    have h' : PassBegins { tick s with inputs := rest } t := by simpa [PassBegins] using h
    obtain ⟨rfl, hl, hp, hn, hc⟩ := exec_passBegins he h'
    exact .inl ⟨by simpa using hl, by simpa using hp, by simpa using hn, hf, by simpa using hc⟩
  | handlerReturns f x below rest hst =>
    obtain ⟨-, -, -, -, -, hin, -⟩ :=
      settle_frame x (.data x.phase.heldData) { tick s with stack := below, inputs := rest }
    have hcount := settle_passCount x (.data x.phase.heldData) { tick s with stack := below, inputs := rest }
    rw [← passCount_handler f] at hcount
    exact absurd h (not_passBegins (fun ht => by simpa using hin ht) (hst ▸ hcount))

/-- A step without a power cycle is one of a block that is not halted (70_reset_and_hazards.md R437). -/
theorem not_halted_of_step {s t : State} (h : step s = .next t) (hp : (boundary s).power = false) :
    s.seq.halted = false := by
  obtain ⟨-, ⟨hp', -⟩ | ⟨-, hh, -⟩⟩ := step_cases s t h
  · exact absurd (hp.symm.trans hp') nofun
  · exact hh

/-- Settles O44: a power cycle leaves no pass, and of the other effects of a step two begin one, each after its tests. -/
theorem passStartsOnlyWhenAllowed : Obligations.PassStartsOnlyWhenAllowed := by
  intro s t hstep h
  rcases step_powerCycle_or_effect hstep with ⟨-, rfl⟩ | ⟨hp, eff⟩
  · exact absurd h (not_passBegins nofun (Nat.zero_le _))
  rcases stepEffect_passBegins eff h with ⟨hl, hin, hn, hf, hc⟩ | ⟨hb, hm⟩
  · exact ⟨hl, hin, passCount_zero hn, not_halted_of_step hstep hp, .inl ⟨hf, hc⟩⟩
  · simp only [passMayStart, tick_ctx, tick_seq, tick_stack, tick_served, Bool.and_eq_true, Bool.not_eq_true'] at hm
    obtain ⟨⟨⟨⟨⟨⟨⟨hirq, hl⟩, hin⟩, hmask⟩, hh⟩, hn⟩, hserved⟩, -⟩ := hm
    exact ⟨hl, hin, passCount_zero hn, hh, .inr ⟨hb, hirq, hmask, hserved⟩⟩

/-! ## What lies below the operation in progress (60_exceptions.md R383, R388) -/

/-- The task on top, or the handler on top with its task, makes way for other entries; nothing under it changes. -/
def OnlyTopChanges (st st' : List Entry) : Prop :=
  ∃ top w below, st = top ++ below ∧ st' = w ++ below ∧
    (top = [] ∨ (∃ x, top = [.task x]) ∨ ∃ f x, top = [.handler f, .task x])

theorem stepEffect_stack {s t : State} (eff : StepEffect s t) : OnlyTopChanges s.stack t.stack := by
  have covers (h : ∃ w, t.stack = w ++ (tick s).stack) : OnlyTopChanges s.stack t.stack := by
    obtain ⟨w, hw⟩ := h
    exact ⟨[], w, s.stack, rfl, tick_stack s ▸ hw, .inl rfl⟩
  cases eff with
  | passStarts =>
    obtain ⟨-, -, -, -, -, hst, -⟩ := startPass_frame .passIrq (tick s)
    exact covers hst
  | taskRuns x below hst =>
    obtain ⟨w, hw⟩ := (runTask_frame x { tick s with stack := below, served := false }).stack
    exact ⟨[.task x], w, below, hst, hw, .inr (.inl ⟨x, rfl⟩)⟩
  | waits => exact covers ⟨[], rfl⟩
  | executes i rest _ _ he =>
    obtain ⟨-, -, -, hst, -⟩ := exec_frame i { tick s with inputs := rest } t he
    exact covers hst
  | handlerReturns f x below rest hst =>
    obtain ⟨w, hw⟩ := (settle_taskFrame x (.data x.phase.heldData) { tick s with stack := below, inputs := rest }
      (tick s).env (tick s).seq.irqMasked [] (Nat.zero_le 1)).stack
    exact ⟨[.handler f, .task x], w, below, hst, hw, .inr (.inr ⟨f, x, rfl⟩)⟩

/-- Settles O46: what a step replaces is at most the task on top, or the handler on top with its task. -/
theorem lowerContinuationsUntouched : Obligations.LowerContinuationsUntouched := by
  intro s t hstep hp
  obtain ⟨top, w, rest, hs, ht, htop⟩ := stepEffect_stack (step_effect hstep hp)
  refine ⟨fun x below hst => ?_, fun f x below hst => ?_⟩ <;> rw [hs] at hst <;>
    rcases htop with rfl | ⟨y, rfl⟩ | ⟨g, y, rfl⟩
  · exact ⟨w ++ [.task x], by rw [ht, List.append_assoc]; exact congrArg _ hst⟩
  · cases hst
    exact ⟨w, ht⟩
  · cases hst
  · exact ⟨w ++ [.handler f, .task x], by rw [ht, List.append_assoc]; exact congrArg _ hst⟩
  · cases hst
  · cases hst
    exact ⟨w, ht⟩

end Sys2Proof.Proofs
end

section
/-! SUPPORT. The halted state and the ways out of it, `deinit`, and the step that takes an instruction or waits
(70_reset_and_hazards.md R410, R411, R417, R437). -/

namespace Sys2Proof.Proofs

open Sys2Proof.Machine Sys2Proof.Laws

/-- A halted block takes no instruction. -/
theorem exec_halted {i : Instr} {s t : State} (hh : s.seq.halted = true) : exec i s ≠ .next t :=
  fun he => absurd (hh.symm.trans (exec_effect i s t he).1) nofun

theorem step_powerCycle {s : State} (hw : s.cfg.wf = true) (hp : (boundary s).power = true) :
    step s = .next (powerCycle (tick s)) := by
  simp [step, hw, hp]

theorem step_halted {s : State} (hw : s.cfg.wf = true) (hp : (boundary s).power = false) (hh : s.seq.halted = true) :
    step s = .fault .halted := by
  simp [step, hw, hp, hh]

/-- Settles O9: the halted block takes nothing, a power cycle gives the power-on state, and a step halts only under the
parameter. -/
theorem haltedUntilPowerCycle : Obligations.HaltedUntilPowerCycle := by
  refine ⟨fun s hh hw => ⟨fun _ _ => exec_halted hh, fun hp => step_halted hw hp hh, fun hp => ?_⟩,
    fun s t hcfg hh hstep => ?_⟩
  · exact ⟨_, step_powerCycle hw hp, rfl, rfl, rfl, rfl⟩
  · by_contra ht
    obtain ⟨hparam, -⟩ := haltNeedsParameter s t hstep hh (by simpa using ht)
    exact absurd (hcfg.symm.trans hparam) nofun

/-- Settles O3: `deinit` is a request that writes the three records and answers. -/
theorem deinitReturnsToPowerOn : Obligations.DeinitReturnsToPowerOn := by
  intro s hs
  simp only [exec, execDeinit, request_ready s _ hs.1 hs.2]
  rfl

/-- Settles O50: with no operation on top the step takes the next input. -/
theorem stepRunsDecodedInstruction : Obligations.StepRunsDecodedInstruction := by
  intro s hw hh hsched htop
  rw [step_fetch s hw hh hsched htop]
  refine ⟨fun i inp rest hin hdec => ?_, fun hin => ?_⟩
  · simp only [fetch, hin, hdec]
  · simp only [fetch, hin]

end Sys2Proof.Proofs
end

section
/-! SUPPORT. What a CRC-mode mismatch does on the chip (70_reset_and_hazards.md R431): a trailer that is not expected is
stored as data, and a frame without the trailer that is expected is flagged in the low status word. -/

namespace Sys2Proof.Proofs

open Sys2Proof.Machine Sys2Proof.Laws

/-! ## The flag -/

/-- The low status word reports the SPI-CRC error. -/
def SpiCrcFlagged (c : Cfg) (x : Chip) : Prop :=
  chipStatusLo c x &&& c.M.SPICRCE = c.M.SPICRCE

theorem readBytes_storeBytes (file : File) (off : Nat) (d : List Byte) (m : Memory) (hm : memWf m = true)
    (hd : d.length ≤ 0x10000) : readBytes (storeBytes m file off d) file off d.length = d := by
  refine List.ext_getElem (by simp [readBytes]) fun i _ hi => ?_
  simp only [readBytes, List.getElem_map, List.getElem_range]
  rw [readByte_storeBytes_wrapping file d m off i hm hi hd, List.getD_eq_getElem d 0 hi]

theorem chipStatusLo_flagSpiCrc {c : Cfg} {x : Chip} (hm : memWf x.mem = true) :
    chipStatusLo c (flagSpiCrc c x) = chipStatusLo c x ||| c.M.SPICRCE :=
  (congrArg unLE32 (readBytes_storeBytes _ _ (le32 _) _ hm (by simp [length_le32]))).trans (unLE32_le32 _)

theorem flagSpiCrc_flagged {c : Cfg} {x : Chip} (hm : memWf x.mem = true) : SpiCrcFlagged c (flagSpiCrc c x) := by
  rw [SpiCrcFlagged, chipStatusLo_flagSpiCrc hm, BitVec.and_comm]
  ext i hi
  simp only [BitVec.getElem_and, BitVec.getElem_or]
  cases c.M.SPICRCE[i] <;> simp

/-! ## A trailer that is missing -/

/-- A chip that expects a trailer finds none, or one that is not the CRC of what precedes it. -/
def ReportsTrailer (c : Cfg) (frame : List Byte) : FrameResult → Prop
  | .invalid e => trailerMissing c true frame e = true
  | .frame f => f.crcOk = false

/-- Whatever write-class frame a header announces, its last byte is taken for the trailer (30_encoding.md R105). -/
theorem decodeBody_reportsTrailer {c : Cfg} {frame rest : List Byte} {kind : Kind} {ext : Bool} {file : File} {sub : Sub}
    (hk : kind ≠ .read) (hbad : rest = [] ∨ crc8 c frame.dropLast ≠ frame.getLastD 0) :
    ReportsTrailer c frame (decodeBody c true frame kind ext file sub rest) := by
  have htrailer : (kind != .read && true) = true := by simpa using hk
  unfold decodeBody
  simp only [htrailer, Bool.true_and, if_true, Bool.not_true, Bool.false_or]
  rcases rest with _ | ⟨b, bs⟩
  · rfl
  have hcrc : crc8 c frame.dropLast ≠ frame.getLastD 0 := hbad.resolve_left nofun
  rw [if_neg nofun]
  split_ifs
  · simpa [ReportsTrailer, trailerMissing] using hcrc
  · simpa [ReportsTrailer, trailerMissing] using hcrc
  · simpa [ReportsTrailer] using hcrc

/-- What the chip reports it flags, beside whatever else it does with the frame (20_memory.md R82). -/
theorem chipTake_flagged {c : Cfg} {frame : List Byte} {x : Chip} (t n : Nat) (hon : x.crcOn = true)
    (hm : memWf x.mem = true) (h : ReportsTrailer c frame (decodeFrame c true frame)) :
    SpiCrcFlagged c (chipTake c t frame n x).1 := by
  unfold chipTake
  rw [hon]
  split
  · next e he =>
    rw [he] at h
    simp only [show trailerMissing c true frame e = true from h, if_true]
    exact flagSpiCrc_flagged hm
  · next f hf =>
    rw [hf] at h
    simp only [show f.crcOk = false from h, Bool.false_eq_true, if_false]
    exact flagSpiCrc_flagged (chipFrame_memWf c t frame f n x hm)

theorem transfer_chip_reached {c : Cfg} {frame : List Byte} {n : Nat} {e : Env} (h : reachesChip n e = true) :
    (transfer c frame n e).2.chip = (chipTake c e.txn frame n e.chip).1 := by
  rw [transfer_chip]
  unfold reachesChip at h
  split
  · next hfail => simp [hfail] at h
  all_goals rfl

/-- A write-class transaction without the trailer the chip expects is flagged (70_reset_and_hazards.md R431). -/
theorem busWrite_flagged {s : State} {hdr body : List Byte} {kind : Kind} {ext : Bool} {file : File} {sub : Sub}
    (hm : memWf s.env.chip.mem = true) (hreach : reachesChip 0 s.env = true) (hoff : s.ctx.crcMode = .off)
    (hon : s.env.chip.crcOn = true) (ha : Announces s.cfg hdr kind ext file sub) (hk : kind ≠ .read)
    (hbad : body = [] ∨ crc8 s.cfg (hdr ++ body.dropLast) ≠ body.getLastD 0) :
    SpiCrcFlagged s.cfg (busWrite hdr body s).2.env.chip := by
  have hnone : trailer s hdr body = none := if_pos hoff
  have hframe : body = [] ∨ crc8 s.cfg (hdr ++ body).dropLast ≠ (hdr ++ body).getLastD 0 := by
    rcases body.eq_nil_or_concat with rfl | ⟨init, b, rfl⟩
    · exact .inl rfl
    · rw [List.concat_eq_append] at hbad ⊢
      rw [← List.append_assoc, List.dropLast_concat, List.getLastD_concat]
      simpa using hbad
  rw [busWrite_eq, hnone, Option.toList_none, List.append_nil]
  dsimp only
  rw [transfer_chip_reached hreach]
  exact chipTake_flagged _ 0 hon hm (ha true body ▸ decodeBody_reportsTrailer hk hframe)

/-! ## A trailer that is stored -/

/-- A write with a trailer to a chip that expects none stores its bytes and the trailer (70_reset_and_hazards.md R431). -/
theorem busWrite_mem_trailer {s : State} {hdr body : List Byte} {ext : Bool} {file : File} {sub : Sub}
    (hreach : reachesChip 0 s.env = true) (hmode : s.ctx.crcMode ≠ .off) (hoff : s.env.chip.crcOn = false)
    (ha : Announces s.cfg hdr .write ext file sub) :
    (busWrite hdr body s).2.env.chip.mem =
      storeBytes s.env.chip.mem file sub.toNat
        (writtenBytes s.cfg s.env.chip.mem file sub.toNat (body ++ [crc8 s.cfg (hdr ++ body)])) := by
  have hsome : trailer s hdr body = some (crc8 s.cfg (hdr ++ body)) := if_neg hmode
  have hdecode : decodeFrame s.cfg s.env.chip.crcOn (hdr ++ (body ++ [crc8 s.cfg (hdr ++ body)])) = .frame
      { kind := .write, ext, file, sub, payload := body ++ [crc8 s.cfg (hdr ++ body)], crcOk := true } := by
    rw [ha, hoff]
    exact decodeBody_plain _ _ _ _ _ _ _ nofun nofun
  rw [busWrite_eq, hsome, Option.toList_some, List.append_assoc]
  dsimp only
  rw [transfer_mem _ _ _ _ _ hdecode rfl, if_pos hreach]
  rfl

/-- 20_memory.md R80, R82: the bytes a write of `d` leaves. -/
theorem written_bytes (c : Cfg) {m : Memory} (file : File) (sub : Sub) {d : List Byte} (hm : memWf m = true)
    (hd : d.length ≤ 0x10000) :
    let m' := storeBytes m file sub.toNat (writtenBytes c m file sub.toNat d)
    (∀ a, a ∉ cellKeys file sub d.length → readByte m' a = readByte m a) ∧
    ∀ n, n < d.length → readByte m' (cellKey file (sub.toNat + n)) =
      writtenByte c m (cellKey file (sub.toNat + n)) (d.getD n 0) := by
  refine ⟨fun a hout => ?_, fun n hn => ?_⟩
  · exact readByte_storeBytes_other file _ _ _ a (by simpa using not_mem_cellKeys hout)
  · rw [← writtenBytes_getD c m file sub.toNat n d hn]
    exact readByte_storeBytes_wrapping file _ _ _ n hm (by simpa using hn) (by simpa using hd)

/-! ## The requests -/

theorem announces_accessHdr (c : Cfg) {k : Kind} (addr : Word) (offset : Half) (hk : k ≠ .fast) :
    ∃ ext, Announces c (accessHdr k addr offset) k ext (fileOf (combined addr offset)) (subOf (combined addr offset)) :=
  announces_headerOf c k _ _ hk

/-- A write accessor, or `transact` of a write, with the bytes it sends. -/
def IsWriteRequest (c : Cfg) (addr : Word) (offset : Half) (i : Instr) (bytes : List Byte) : Prop :=
  (∃ v, i = .write8 addr offset v ∧ bytes = [v]) ∨ (∃ v, i = .write16 addr offset v ∧ bytes = le16 v) ∨
    (∃ v, i = .write32 addr offset v ∧ bytes = le32 v) ∨
    (i = .transact addr offset (BitVec.ofNat 16 bytes.length) 0x8000 false bytes ∧ lenWf c bytes.length = true)

theorem IsWriteRequest.starts {s : State} {addr : Word} {offset : Half} {i : Instr} {bytes : List Byte} (hs : Ready s)
    (h : IsWriteRequest s.cfg addr offset i bytes) :
    bytes.length < 0x10000 ∧ exec i s = start (.write (accessHdr .write addr offset) bytes) s := by
  rcases h with ⟨v, rfl, rfl⟩ | ⟨v, rfl, rfl⟩ | ⟨v, rfl, rfl⟩ | ⟨rfl, hl⟩
  · exact ⟨by simp, writeAccessor_ready hs ..⟩
  · exact ⟨by simp [length_le16], writeAccessor_ready hs ..⟩
  · exact ⟨by simp [length_le32], writeAccessor_ready hs ..⟩
  · exact ⟨lenWf_lt hl, transact_write_ready hs addr offset hl⟩

/-- A modify accessor, with its kind and the two masks it sends. -/
def IsModifyRequest (addr : Word) (offset : Half) (i : Instr) (k : Kind) (masks : List Byte) : Prop :=
  (∃ and or, i = .modify8 addr offset and or ∧ k = .mod8 ∧ masks = [and, or]) ∨
    (∃ and or, i = .modify16 addr offset and or ∧ k = .mod16 ∧ masks = le16 and ++ le16 or) ∨
    (∃ and or, i = .modify32 addr offset and or ∧ k = .mod32 ∧ masks = le32 and ++ le32 or)

theorem IsModifyRequest.starts {s : State} {addr : Word} {offset : Half} {i : Instr} {k : Kind} {masks : List Byte}
    (hs : Ready s) (h : IsModifyRequest addr offset i k masks) :
    k.isModify = true ∧ exec i s = start (.write (accessHdr k addr offset) masks) s := by
  rcases h with ⟨a, o, rfl, rfl, rfl⟩ | ⟨a, o, rfl, rfl, rfl⟩ | ⟨a, o, rfl, rfl, rfl⟩ <;>
    exact ⟨rfl, writeAccessor_ready hs ..⟩

/-- Settles O55: a trailer too many is payload to the chip; one too few is the last byte of the frame, or nothing. -/
theorem crcModeMismatchOnChip : Obligations.CrcModeMismatchOnChip := by
  intro s t addr offset _ hs hm hreach flagged
  have hflagged {hdr body : List Byte} {kind : Kind} {ext : Bool} {file : File} {sub : Sub}
      (he : start (.write hdr body) s = .next t) (ha : Announces s.cfg hdr kind ext file sub) (hk : kind ≠ .read)
      (hoff : s.ctx.crcMode = .off) (hon : s.env.chip.crcOn = true)
      (hbad : body = [] ∨ crc8 s.cfg (hdr ++ body.dropLast) ≠ body.getLastD 0) : flagged t := by
    simp only [flagged, start_write_env he]
    exact busWrite_flagged hm hreach hoff hon ha hk hbad
  refine ⟨fun i bytes hi he => ?_, fun i k masks hi he hoff hon hbad => ?_, fun hcode he hoff hon => ?_⟩
  · obtain ⟨hlen, hstart⟩ := IsWriteRequest.starts hs hi
    obtain ⟨ext, ha⟩ := announces_accessHdr s.cfg (k := .write) addr offset nofun
    rw [hstart] at he
    refine ⟨fun hmode hoff => ?_, fun hoff hon hbad => hflagged he ha nofun hoff hon (.inr hbad)⟩
    rw [start_write_env he, busWrite_mem_trailer hreach hmode hoff ha]
    exact written_bytes s.cfg _ _ hm (by simpa using hlen)
  · obtain ⟨hk, hstart⟩ := IsModifyRequest.starts hs hi
    obtain ⟨ext, ha⟩ := announces_accessHdr s.cfg addr offset (show k ≠ .fast by rintro rfl; cases hk)
    exact hflagged (hstart ▸ he) ha (by rintro rfl; cases hk) hoff hon (.inr hbad)
  · rw [exec_fastcmd_ready hs, if_pos (BitVec.lt_def.2 hcode)] at he
    exact hflagged he (announces_fast s.cfg _) nofun hoff hon (.inl rfl)

end Sys2Proof.Proofs
end
